-- ==== Sys2Proof/Word.lean ====
section
/-! DEFINITION. The byte, the only word the block moves (R10, R44). -/

namespace Sys2Proof

/-- R10: an unsigned 8-bit value. -/
abbrev Byte := BitVec 8

end Sys2Proof
end

