-- ==== Sys2Proof/Config.lean ====
section
/-! DEFINITION. The two open parameters of the spec (R7) and its fixed constants (R8). -/

namespace Sys2Proof

/-- R7: `VENDOR_MODE`, what the VendorCode state asks for and accepts. -/
inductive VendorMode where
  | canonical12
  | legacy23
deriving DecidableEq, Repr

/-- R7: `SHORT_READ_POLICY`, the length below which a response is Incomplete. -/
inductive ShortReadPolicy where
  | patternExtent
  | fullLength
deriving DecidableEq, Repr

/-- R7, R30: the configuration record, constant between two hardware resets. -/
structure Config where
  vendorMode : VendorMode
  shortRead  : ShortReadPolicy
deriving DecidableEq, Repr

/-- R7: the default of each parameter. -/
def Config.default : Config := { vendorMode := .canonical12, shortRead := .patternExtent }

/-- R8: `N_STATES`. -/
def nStates : Nat := 8

/-- R8: `MAX_FRAME`, eleven opcode bytes and the checksum. -/
def maxFrame : Nat := 12

/-- R8: `MAX_RESP`, the longest response length requested (under `LEGACY23`). -/
def maxResp : Nat := 23

/-- R8, R29: `RXBUF_DEPTH`. -/
def rxbufDepth : Nat := 23

end Sys2Proof
end

