-- ==== Sys2Proof/Syntax.lean ====
section
/-! DEFINITION. The protocol states, the response patterns, and the instructions: one constructor for each row of
spec/opcode_table.json, the eight command rows (R70) and the five response-pattern rows (R66). -/

namespace Sys2Proof

/-- R21, R67: the eight protocol states, in pipeline order. -/
inductive ProtoState where
  | haltStream
  | getInterval
  | vendorCode
  | serialNumber
  | hardwareRevision
  | softwareRevision
  | productName
  | partNumber
deriving DecidableEq, Repr

/-- R66: the five response patterns. -/
inductive Pattern where
  | any1
  | ack1
  | ack3
  | nak3
  | vack4
deriving DecidableEq, Repr

/-- One constructor for each row of spec/opcode_table.json.

A command (the first eight) is the operation of one protocol state: one tick (R100). It has no explicit operand.

A response (the last five) is a byte sequence the transport delivers, under the most specific pattern whose header it
begins with; its operands are the wildcard bytes (R66: "An offset not listed is a wildcard"), so that no byte of the
response is lost. `payload` is every byte after the pattern's extent; `any1`'s `first` is its one unconstrained byte.
DESIGN CHOICE, notes/assumptions/1.md. -/
inductive Instr where
  | haltStream
  | getInterval
  | vendorCode
  | serialNumber
  | hardwareRevision
  | softwareRevision
  | productName
  | partNumber
  | any1 (first : Byte) (payload : List Byte)
  | ack1 (payload : List Byte)
  | ack3 (payload : List Byte)
  | nak3 (payload : List Byte)
  | vack4 (payload : List Byte)
deriving DecidableEq, Repr

end Sys2Proof
end

