-- ==== Sys2Proof/Machine/State.lean ====
section
/-! DEFINITION. The machine's state as plain data (R20), the inputs the host and the transport give it (R13, R128), the
report of a completed tick (R26, R126), the reasons for a stop, and the state after reset (R33). -/

namespace Sys2Proof.Machine

/-- R27, R69: which step of a tick is running. -/
inductive Phase where
  | idle
  | tx
  | rx
  | decide
deriving DecidableEq, Repr

/-- R25, R69: where a TransportError struck. -/
inductive FaultPhase where
  | transmit
  | receive
deriving DecidableEq, Repr

/-- R68: the four results of classification. -/
inductive Classification where
  | ack
  | nak
  | unrecognized
  | incomplete
deriving DecidableEq, Repr

/-- R128: every input port but `clk`, as sampled at one rising edge. -/
structure PortIn where
  rst             : Bool
  cfgVendorLegacy : Bool
  cfgStrictLen    : Bool
  tickStart       : Bool
  txReady         : Bool
  rxValid         : Bool
  rxData          : Byte
  rxDone          : Bool
  tpError         : Bool
deriving DecidableEq, Repr

/-- R13, R123: the transport's answer to `Transmit`. `accepted` is how many bytes of the frame it had taken before it
failed, which the block does not use (D13) and which fixes what was handed over (R135). -/
inductive TxAnswer where
  | ok
  | error (accepted : Nat)
deriving DecidableEq, Repr

/-- R13, R124: the transport's answer to `Receive`. `accepted` holds the bytes it had delivered before it failed. -/
inductive RxAnswer where
  | ok (r : List Byte)
  | error (accepted : List Byte)
deriving DecidableEq, Repr

/-- What the outside does to the block next. notes/assumptions/2.md. -/
inductive Input where
  /-- One rising edge of `clk` with the ports as sampled (R128). -/
  | edge (p : PortIn)
  /-- The host asks for one tick, and the transport answers so (R121, R126). -/
  | tick (tx : TxAnswer) (rx : RxAnswer)
  /-- The transport's whole answer to an open receive: these bytes, and then its end (R124, R132, R133). -/
  | response (r : List Byte)
deriving DecidableEq, Repr

/-- R126, R26: the observable trace of a completed tick, `(s, f, L, r, outputs, s')`. -/
structure TickReport where
  start           : ProtoState
  frame           : List Byte
  maxLen          : Nat
  response        : List Byte
  cls             : Classification
  shortRead       : Bool
  mismatch        : Bool
  stateChanged    : Bool
  sessionComplete : Bool
  protoReset      : Bool
  next            : ProtoState
deriving DecidableEq, Repr

/-- R40: a byte address space as a list of (offset, byte) cells; an unlisted offset holds no value (R29). -/
abbrev Memory := List Host.Cell

/-- The one form of a receive buffer: offsets strictly rising, each below the buffer's depth (R29). -/
abbrev Memory.wf (m : Memory) : Prop :=
  List.Pairwise (fun a b => a.1 < b.1) m ∧ ∀ c ∈ m, c.1 < rxbufDepth

/-- R20: the whole state of the block, with the straps, the wire and the inputs beside it. -/
structure State where
  /-- `STATE` (R21). -/
  state  : ProtoState
  /-- `FAULT` (R24). -/
  fault  : Bool
  /-- `FPHASE` (R25). -/
  fphase : FaultPhase
  /-- `PHASE` (R27). -/
  phase  : Phase
  /-- `TXIDX` (R28). -/
  txidx  : BitVec 4
  /-- `CKACC` (R28). -/
  ckacc  : Byte
  /-- `RXCNT` (R29). -/
  rxcnt  : BitVec 5
  /-- `RXBUF[0..22]` (R29, R42). -/
  rxbuf  : Memory
  /-- The configuration straps, steady since the last reset edge (R30). -/
  cfg    : Config
  /-- The TX stream: every byte handed to the transport, oldest first (R40, R43). notes/assumptions/3.md. -/
  wireTx : List Byte
  /-- What the host and the transport do next, oldest first. notes/assumptions/2.md. -/
  inbox  : List Input
  /-- The trace of the tick that the last step completed, if it completed one (R26). notes/assumptions/6.md. -/
  report : Option TickReport
deriving DecidableEq, Repr

/-- Why the machine stops. None is raised in a state that satisfies the invariant of Safety.lean. -/
inductive Fault where
  /-- Raised by a read of `RXBUF` at an offset at or above `RXCNT`, or in a cell never written (R29, U1: "a model
  should `refuse` (or fault) a read of such a cell"). Safe. -/
  | rxbufUnspecified (offset : Nat)
  /-- Raised by a read of `RXBUF` at an offset of 23 or more, which does not exist (R40). Safe. -/
  | rxbufNoSuchOffset (offset : Nat)
  /-- Raised by phase TX when `TXIDX` is beyond the checksum byte: the read of `ROM` it would make "is never made by
  any rule and has no meaning" (R41). Safe. -/
  | romNoByte (offset : Nat)
deriving DecidableEq, Repr

/-- What the model declines to run. -/
inductive Refusal where
  /-- Raised by `exec` for an instruction without a meaning; no arm raises it. Safe. -/
  | notModelled (mnemonic : String)
  /-- Raised by a clock edge with `rst` = 0 whose straps differ from those of the last reset (R30, R182, U4: "`refuse`:
  the model takes the configuration as a constant of the run"). Safe. -/
  | strapsChanged
deriving DecidableEq, Repr

/-- R33: the block after hardware reset at power-up, its straps at the defaults of R7, the wire and the inputs empty.
notes/assumptions/2.md to 6.md name what the spec does not give. -/
def State.reset : State :=
  { state := .haltStream, fault := false, fphase := .transmit, phase := .idle, txidx := 0, ckacc := 0, rxcnt := 0,
    rxbuf := [], cfg := Config.default, wireTx := [], inbox := [], report := none }

end Sys2Proof.Machine
end

