-- ==== Sys2Proof/Machine/Codes.lean ====
section
/-! DEFINITION. The numeric codes of the spec's code tables (R67, R68, R69), as they stand on the ports. -/

namespace Sys2Proof

/-- R21, R67. -/
def ProtoState.code : ProtoState → BitVec 3
  | .haltStream       => 0
  | .getInterval      => 1
  | .vendorCode       => 2
  | .serialNumber     => 3
  | .hardwareRevision => 4
  | .softwareRevision => 5
  | .productName      => 6
  | .partNumber       => 7

/-- R69, R30: `cfg_vendor_legacy`. -/
def VendorMode.ofStrap : Bool → VendorMode
  | false => .canonical12
  | true  => .legacy23

/-- R69, R30: `cfg_strict_len`. -/
def ShortReadPolicy.ofStrap : Bool → ShortReadPolicy
  | false => .patternExtent
  | true  => .fullLength

namespace Machine

/-- R68. -/
def Classification.code : Classification → BitVec 2
  | .ack          => 0
  | .nak          => 1
  | .unrecognized => 2
  | .incomplete   => 3

/-- R69. -/
def Phase.code : Phase → BitVec 2
  | .idle   => 0
  | .tx     => 1
  | .rx     => 2
  | .decide => 3

/-- R69. -/
def FaultPhase.code : FaultPhase → BitVec 1
  | .transmit => 0
  | .receive  => 1

/-- R30: the configuration the two strap inputs carry. -/
def PortIn.config (p : PortIn) : Config :=
  { vendorMode := VendorMode.ofStrap p.cfgVendorLegacy, shortRead := ShortReadPolicy.ofStrap p.cfgStrictLen }

end Machine

end Sys2Proof
end

