-- ==== Sys2Proof/Machine/Codec.lean ====
section
/-! DEFINITION. The frame codec: checksum arithmetic, frame building, frame validation (R80 to R83), the constant
command table ROM (R41, R70) and the response headers (R66). -/

namespace Sys2Proof

/-- R11: the integer sum of the bytes, not reduced. -/
def byteSum (x : List Byte) : Nat := (x.map BitVec.toNat).sum

/-- R80: an 8-bit accumulator that discards every carry. -/
def sum8 (x : List Byte) : Byte := x.foldl (fun acc b => acc + b) 0

/-- R81, R65: the source's formula, computed in the integers and then one byte. -/
def cksum (x : List Byte) : Byte := BitVec.ofNat 8 ((256 - byteSum x % 256) % 256)

/-- R82. -/
def buildFrame (x : List Byte) : List Byte := x ++ [cksum x]

/-- R83: the checksum validator. -/
def frameValid (f : List Byte) : Bool := sum8 f == 0

/-- R64: the selector byte of a query frame; the two states without one have no entry. -/
def selector : ProtoState → Option Byte
  | .haltStream       => none
  | .getInterval      => none
  | .vendorCode       => some 0
  | .serialNumber     => some 1
  | .hardwareRevision => some 2
  | .softwareRevision => some 3
  | .productName      => some 4
  | .partNumber       => some 5

/-- R63: the ten opcode bytes every query frame begins with. -/
def queryPrefix : List Byte := [0x10, 0x0A, 0x0A, 0, 0, 0, 0, 0, 0, 0]

/-- R41, R70: the opcode bytes of a state, `ROM(s, 0 ..)`. -/
def rom : ProtoState → List Byte
  | .haltStream       => [0x10, 0x01]
  | .getInterval      => [0x10, 0x02, 0x02, 0xFF]
  | .vendorCode       => queryPrefix ++ [0]
  | .serialNumber     => queryPrefix ++ [1]
  | .hardwareRevision => queryPrefix ++ [2]
  | .softwareRevision => queryPrefix ++ [3]
  | .productName      => queryPrefix ++ [4]
  | .partNumber       => queryPrefix ++ [5]

/-- R41: `oplen(s)`. -/
def oplen : ProtoState → Nat
  | .haltStream       => 2
  | .getInterval      => 4
  | .vendorCode       => 11
  | .serialNumber     => 11
  | .hardwareRevision => 11
  | .softwareRevision => 11
  | .productName      => 11
  | .partNumber       => 11

/-- R60: `framelen(s) = oplen(s) + 1`. -/
def framelen (p : ProtoState) : Nat := oplen p + 1

/-- R82: the command frame of a state. -/
def frame (p : ProtoState) : List Byte := buildFrame (rom p)

/-- R66: the header bytes of a pattern, the values its constraints name at offsets 0, 1, ... -/
def Pattern.header : Pattern → List Byte
  | .any1  => []
  | .ack1  => [0x06]
  | .ack3  => [0x06, 0x0A, 0x14]
  | .nak3  => [0x15, 0x0A, 0x01]
  | .vack4 => [0x5B, 0x06, 0x0A, 0x14]

/-- The bytes `r` begin with the bytes `h`. -/
def beginsWith (h r : List Byte) : Bool := r.take h.length == h

end Sys2Proof
end

