-- ==== Sys2Proof/Machine/Operands.lean ====
section
/-! DEFINITION. The operands of a tick (R100): the length a state asks for (R71), the patterns that judge the response
(R66, R85, R86), the minimum length (R87) and the classification (R88). -/

namespace Sys2Proof

/-- R66: the (offset, byte) constraints of a pattern. -/
def Pattern.constraints : Pattern → List (Nat × Byte)
  | .any1  => []
  | .ack1  => [(0, 0x06)]
  | .ack3  => [(0, 0x06), (1, 0x0A), (2, 0x14)]
  | .nak3  => [(0, 0x15), (1, 0x0A), (2, 0x01)]
  | .vack4 => [(0, 0x5B), (1, 0x06), (2, 0x0A), (3, 0x14)]

/-- R66: the extent. -/
def Pattern.extent : Pattern → Nat
  | .any1  => 1
  | .ack1  => 1
  | .ack3  => 3
  | .nak3  => 3
  | .vack4 => 4

/-- R85. The rule never evaluates it on a response shorter than the extent; such a response matches nothing here. -/
def Pattern.matches (q : Pattern) (r : List Byte) : Bool :=
  decide (q.extent ≤ r.length) && q.constraints.all (fun c => r[c.1]? == some c.2)

namespace Machine

/-- R71: the `L` passed to `Receive`. -/
def respLen (cfg : Config) : ProtoState → Nat
  | .haltStream       => 4
  | .getInterval      => 5
  | .vendorCode       => match cfg.vendorMode with
    | .canonical12 => 12
    | .legacy23    => 23
  | .serialNumber     => 12
  | .hardwareRevision => 12
  | .softwareRevision => 12
  | .productName      => 12
  | .partNumber       => 12

/-- R86: `ackpat(s)`. -/
def ackPat (cfg : Config) : ProtoState → Pattern
  | .haltStream       => .any1
  | .getInterval      => .ack1
  | .vendorCode       => match cfg.vendorMode with
    | .canonical12 => .ack3
    | .legacy23    => .vack4
  | .serialNumber     => .ack3
  | .hardwareRevision => .ack3
  | .softwareRevision => .ack3
  | .productName      => .ack3
  | .partNumber       => .ack3

/-- R86: `nakpat(s)`, where the state has one. -/
def nakPat : ProtoState → Option Pattern
  | .haltStream       => none
  | .getInterval      => none
  | .vendorCode       => some .nak3
  | .serialNumber     => some .nak3
  | .hardwareRevision => some .nak3
  | .softwareRevision => some .nak3
  | .productName      => some .nak3
  | .partNumber       => some .nak3

/-- R86: `extent(s)`, the larger of the two patterns' extents. -/
def extent (cfg : Config) (p : ProtoState) : Nat :=
  match nakPat p with
  | none   => (ackPat cfg p).extent
  | some q => max (ackPat cfg p).extent q.extent

/-- R87: HaltStream is exempt from `FULL_LENGTH`. -/
def minLen (cfg : Config) (p : ProtoState) : Nat :=
  match cfg.shortRead with
  | .patternExtent => extent cfg p
  | .fullLength    => if p = .haltStream then 1 else respLen cfg p

/-- The nak pattern of a state, where it has one, matches. -/
def nakMatches (p : ProtoState) (r : List Byte) : Bool :=
  match nakPat p with
  | none   => false
  | some q => q.matches r

/-- R88: the length test first, then the ack pattern, then the nak pattern. -/
def classify (cfg : Config) (p : ProtoState) (r : List Byte) : Classification :=
  if r.length < minLen cfg p then .incomplete
  else if (ackPat cfg p).matches r then .ack
  else if nakMatches p r then .nak
  else .unrecognized

end Machine

end Sys2Proof
end

