-- ==== Sys2Proof/Machine/Transition.lean ====
section
/-! DEFINITION. Where each state goes on each classification: the pseudocode of the state rules R101, R102, R105, R106
and R110 to R115, and their union R23. -/

namespace Sys2Proof.Machine

/-- R101. The Nak and Unrecognized cells "cannot occur" (R23, U8). -/
def haltStreamNext : Classification → ProtoState
  | .ack          => .getInterval
  | .nak          => .haltStream
  | .unrecognized => .haltStream
  | .incomplete   => .haltStream

/-- R102. The Nak cell "cannot occur" (R23, U8). -/
def getIntervalNext : Classification → ProtoState
  | .ack          => .vendorCode
  | .nak          => .getInterval
  | .unrecognized => .getInterval
  | .incomplete   => .getInterval

/-- R105, R106: retry on everything but Ack. -/
def vendorCodeNext : Classification → ProtoState
  | .ack          => .serialNumber
  | .nak          => .vendorCode
  | .unrecognized => .vendorCode
  | .incomplete   => .vendorCode

/-- R110: the common transition of the query states; `succ` is the state an Ack leads to. -/
def queryNext (self succ : ProtoState) : Classification → ProtoState
  | .ack          => succ
  | .nak          => .haltStream
  | .unrecognized => self
  | .incomplete   => self

/-- R23: `next(s, c)`. -/
def next : ProtoState → Classification → ProtoState
  | .haltStream,       c => haltStreamNext c
  | .getInterval,      c => getIntervalNext c
  | .vendorCode,       c => vendorCodeNext c
  | .serialNumber,     c => queryNext .serialNumber .hardwareRevision c
  | .hardwareRevision, c => queryNext .hardwareRevision .softwareRevision c
  | .softwareRevision, c => queryNext .softwareRevision .productName c
  | .productName,      c => queryNext .productName .partNumber c
  | .partNumber,       c => queryNext .partNumber .partNumber c

/-- R14, R110: the five component-query states. -/
def isQuery : ProtoState → Bool
  | .haltStream       => false
  | .getInterval      => false
  | .vendorCode       => false
  | .serialNumber     => true
  | .hardwareRevision => true
  | .softwareRevision => true
  | .productName      => true
  | .partNumber       => true

end Sys2Proof.Machine
end

