-- ==== Sys2Proof/Machine/Flags.lean ====
section
/-! DEFINITION. The outputs of a completed tick (R26, R90): functions of the state at its start, the response and the
configuration. -/

namespace Sys2Proof.Machine

/-- R90: fewer bytes than the state asked for. -/
def shortRead (cfg : Config) (p : ProtoState) (r : List Byte) : Bool := decide (r.length < respLen cfg p)

/-- R90: the classification is Unrecognized. -/
def mismatch (c : Classification) : Bool := decide (c = .unrecognized)

/-- R26: the tick moved STATE. -/
def stateChanged (p : ProtoState) (c : Classification) : Bool := decide (next p c ≠ p)

/-- R26: PartNumber acknowledged. -/
def sessionComplete (p : ProtoState) (c : Classification) : Bool :=
  decide (p = .partNumber ∧ c = .ack)

/-- R26: a query state took its back-edge to HaltStream. -/
def protoReset (p : ProtoState) (c : Classification) : Bool := decide (isQuery p = true ∧ c = .nak)

/-- R126: what a completed tick shows the host. -/
def tickReport (cfg : Config) (p : ProtoState) (r : List Byte) : TickReport :=
  let c := classify cfg p r
  { start := p, frame := frame p, maxLen := respLen cfg p, response := r, cls := c,
    shortRead := shortRead cfg p r, mismatch := mismatch c, stateChanged := stateChanged p c,
    sessionComplete := sessionComplete p c, protoReset := protoReset p c, next := next p c }

end Sys2Proof.Machine
end

