-- ==== Sys2Proof/Machine/Ops.lean ====
section
/-! DEFINITION. The named operations over the receive buffer and the registers, the entry of a TransportError and the
hardware reset that alone leaves it, and the two shared meanings: a tick (R126) and the answer to an open receive
(R124, R132 to R134). -/

namespace Sys2Proof.Machine

/-- The byte a cell holds, if one was ever stored there. -/
def Memory.read : Memory → Nat → Option Byte
  | [], _ => none
  | c :: m, a => if c.1 = a then some c.2 else Memory.read m a

/-- Store one byte, keeping the offsets strictly rising. -/
def Memory.write : Memory → Nat → Byte → Memory
  | [], a, v => [(a, v)]
  | c :: m, a, v =>
    if a < c.1 then (a, v) :: c :: m
    else if a = c.1 then (a, v) :: m
    else c :: Memory.write m a v

/-- R42: consecutive bytes, in arrival order, from one offset on. -/
def Memory.writeBytes : Memory → Nat → List Byte → Memory
  | m, _, [] => m
  | m, a, b :: bs => Memory.writeBytes (m.write a b) (a + 1) bs

/-- The address space as the host and the classifier read it: offsets 0 to 22 exist (R40), and one at or above `RXCNT`
holds an unspecified value (R29). -/
def State.readRxBuf (s : State) (i : Nat) : Except Fault Byte :=
  if rxbufDepth ≤ i then .error (.rxbufNoSuchOffset i)
  else if s.rxcnt.toNat ≤ i then .error (.rxbufUnspecified i)
  else match s.rxbuf.read i with
    | none   => .error (.rxbufUnspecified i)
    | some b => .ok b

/-- `n` consecutive reads of `RXBUF` from offset `i`. -/
def State.readRxBytes (s : State) : Nat → Nat → Except Fault (List Byte)
  | _, 0 => .ok []
  | i, n + 1 =>
    match s.readRxBuf i with
    | .error e => .error e
    | .ok b =>
      match s.readRxBytes (i + 1) n with
      | .error e => .error e
      | .ok bs => .ok (b :: bs)

/-- R134: `r = RXBUF[0:RXCNT]`. -/
def State.response (s : State) : Except Fault (List Byte) := s.readRxBytes 0 s.rxcnt.toNat

/-- R41: `MemRead(ROM, (s, i), 1)`; an offset at or above `oplen(s)` has no meaning. -/
def romRead (p : ProtoState) (i : Nat) : Except Fault Byte :=
  match (rom p)[i]? with
  | none   => .error (.romNoByte i)
  | some b => .ok b

/-- R130: the byte offered in phase TX. -/
def State.txByte (s : State) : Except Fault Byte :=
  if s.txidx.toNat = oplen s.state then .ok (0 - s.ckacc) else romRead s.state s.txidx.toNat

/-- R121: a tick may start. -/
def State.canStart (s : State) : Bool := s.phase == .idle && !s.fault

/-- The input this step answers is used up. -/
def State.consume (s : State) : State := { s with inbox := s.inbox.tail }

/-- Nothing changes, and no tick completes (R26: the outputs exist only in a `tick_done` cycle). -/
def State.hold (s : State) : State := { s with report := none }

/-- R129: the registers a starting tick sets. -/
def State.beginTick (s : State) : State :=
  { s with phase := .tx, txidx := 0, ckacc := 0, rxcnt := 0, report := none }

/-- R122, R130: the first `k` bytes of the frame of `p` go to the transport. `TXIDX` stops at the checksum byte. -/
def State.transmit (p : ProtoState) (k : Nat) (s : State) : State :=
  { s with
    txidx := BitVec.ofNat 4 (min k (oplen p))
    ckacc := s.ckacc + sum8 ((frame p).take k)
    wireTx := s.wireTx ++ (frame p).take k }

/-- R130: the receive request is made. -/
def State.openReceive (s : State) : State := { s with phase := .rx }

/-- R132: bytes are stored in arrival order at consecutive offsets from `RXCNT`. -/
def State.accept (bs : List Byte) (s : State) : State :=
  { s with
    rxbuf := s.rxbuf.writeBytes s.rxcnt.toNat bs
    rxcnt := s.rxcnt + BitVec.ofNat 5 bs.length }

/-- R143, R135: entry of a TransportError. `STATE` names the state whose tick failed, nothing else is saved, and
control goes nowhere: the block stops starting ticks. -/
def State.takeTransportError (ph : FaultPhase) (s : State) : State :=
  { s with fault := true, fphase := ph, phase := .idle, report := none }

/-- R144, R136, R170, R33: there is no return from a fault but hardware reset, which gives every register its reset
value whatever else is happening. `RXBUF` is not reset (R33), the wire is left as it is (D25), and the straps may be
set anew (R30). -/
def State.hardReset (cfg : Config) (s : State) : State :=
  { s with
    state := .haltStream, fault := false, fphase := .transmit, phase := .idle, txidx := 0, ckacc := 0, rxcnt := 0,
    cfg := cfg, report := none }

/-- R125, R134: classify by the pattern of `p`, write `STATE`, show the outputs, end the tick. -/
def State.decideTick (p : ProtoState) (r : List Byte) (s : State) : State :=
  { s with
    state := next p (classify s.cfg p r)
    phase := .idle
    report := some (tickReport s.cfg p r) }

/-- R124 to R126: the receive of a tick at `p` and what follows. A faulting receive can have delivered at most
`L - 1` bytes, since `L` bytes end it (R133); an over-long answer is cut to its first `L` bytes (R124, D14). -/
def State.answerReceive (p : ProtoState) (rx : RxAnswer) (s : State) : State :=
  match rx with
  | .error got => (s.accept (got.take (respLen s.cfg p - 1))).takeTransportError .receive
  | .ok r => (s.accept (r.take (respLen s.cfg p))).decideTick p (r.take (respLen s.cfg p))

/-- R126: one tick of the state `p`, given the transport's answers. A faulting transmit can have taken at most
`oplen` bytes, since the checksum byte ends phase TX (R130). -/
def State.tick (p : ProtoState) (tx : TxAnswer) (rx : RxAnswer) (s : State) : State :=
  match tx with
  | .error k => (s.beginTick.transmit p (min k (oplen p))).takeTransportError .transmit
  | .ok => (s.beginTick.transmit p (framelen p)).openReceive.answerReceive p rx

/-- A command of the state `p` at the head of the inputs: the tick runs if the host asks for one and one may start
(R121); a request made while a tick runs or while `FAULT` = 1 is ignored; without a request the block "never starts a
tick by itself". -/
def runCommand (p : ProtoState) (s : State) : Host.Outcome State Fault Refusal :=
  match s.inbox with
  | .tick tx rx :: _ => if s.canStart then .next (s.consume.tick p tx rx) else .next s.consume.hold
  | .response _ :: _ => .next s.hold
  | .edge _ :: _ => .next s.hold
  | [] => .next s.hold

/-- How many more bytes the open receive takes (R132). -/
def State.room (s : State) : Nat := respLen s.cfg s.state - s.rxcnt.toNat

/-- The bytes `bs` are the transport's answer, and with them it ends the receive: they are accepted up to the length
asked for, then the DECIDE step follows (R132, R133, R134). "A byte presented while `rx_req = 0` is not taken by the
block" (R132): without an open receive nothing happens. -/
def respond (bs : List Byte) (s : State) : Host.Outcome State Fault Refusal :=
  if s.phase = .rx then
    match (s.consume.accept (bs.take s.room)).response with
    | .error e => .fault e
    | .ok r => .next ((s.consume.accept (bs.take s.room)).decideTick s.state r)
  else .next s.consume.hold

end Sys2Proof.Machine
end

