-- ==== Sys2Proof/Machine/Handshake.lean ====
section
/-! DEFINITION. The handshake states HaltStream and GetInterval. -/

namespace Sys2Proof.Machine

/-- R101. -/
def execHaltStream (s : State) : Host.Outcome State Fault Refusal := runCommand .haltStream s

/-- R102. -/
def execGetInterval (s : State) : Host.Outcome State Fault Refusal := runCommand .getInterval s

end Sys2Proof.Machine
end

