-- ==== Sys2Proof/Machine/Query.lean ====
section
/-! DEFINITION. The component-query states SerialNumber to PartNumber (R110). -/

namespace Sys2Proof.Machine

/-- R111. -/
def execSerialNumber (s : State) : Host.Outcome State Fault Refusal := runCommand .serialNumber s

/-- R112. -/
def execHardwareRevision (s : State) : Host.Outcome State Fault Refusal := runCommand .hardwareRevision s

/-- R113. -/
def execSoftwareRevision (s : State) : Host.Outcome State Fault Refusal := runCommand .softwareRevision s

/-- R114. -/
def execProductName (s : State) : Host.Outcome State Fault Refusal := runCommand .productName s

/-- R115. -/
def execPartNumber (s : State) : Host.Outcome State Fault Refusal := runCommand .partNumber s

end Sys2Proof.Machine
end

