-- ==== Sys2Proof/Machine/Response.lean ====
section
/-! DEFINITION. The five response patterns (R66) as what the block does with a response that begins so, in the open
receive of the state STATE names (R132 to R134). notes/assumptions/1.md. -/

namespace Sys2Proof.Machine

/-- `ANY1`. -/
def execAny1 (first : Byte) (payload : List Byte) (s : State) : Host.Outcome State Fault Refusal :=
  respond (first :: payload) s

/-- `ACK1`. -/
def execAck1 (payload : List Byte) (s : State) : Host.Outcome State Fault Refusal :=
  respond (Pattern.ack1.header ++ payload) s

/-- `ACK3`. -/
def execAck3 (payload : List Byte) (s : State) : Host.Outcome State Fault Refusal :=
  respond (Pattern.ack3.header ++ payload) s

/-- `NAK3`. -/
def execNak3 (payload : List Byte) (s : State) : Host.Outcome State Fault Refusal :=
  respond (Pattern.nak3.header ++ payload) s

/-- `VACK4`. -/
def execVack4 (payload : List Byte) (s : State) : Host.Outcome State Fault Refusal :=
  respond (Pattern.vack4.header ++ payload) s

end Sys2Proof.Machine
end

