-- ==== Sys2Proof/Machine/Vendor.lean ====
section
/-! DEFINITION. The VendorCode state, in both vendor modes. -/

namespace Sys2Proof.Machine

/-- R105 under `CANONICAL12`, R106 under `LEGACY23`. -/
def execVendorCode (s : State) : Host.Outcome State Fault Refusal := runCommand .vendorCode s

end Sys2Proof.Machine
end

