-- ==== Sys2Proof/Machine/Dispatch.lean ====
section
/-! DEFINITION. One arm for each instruction. -/

namespace Sys2Proof.Machine

def exec (i : Instr) (s : State) : Host.Outcome State Fault Refusal :=
  match i with
  | .haltStream => Sys2Proof.Machine.execHaltStream s
  | .getInterval => Sys2Proof.Machine.execGetInterval s
  | .vendorCode => Sys2Proof.Machine.execVendorCode s
  | .serialNumber => Sys2Proof.Machine.execSerialNumber s
  | .hardwareRevision => Sys2Proof.Machine.execHardwareRevision s
  | .softwareRevision => Sys2Proof.Machine.execSoftwareRevision s
  | .productName => Sys2Proof.Machine.execProductName s
  | .partNumber => Sys2Proof.Machine.execPartNumber s
  | .any1 first payload => Sys2Proof.Machine.execAny1 first payload s
  | .ack1 payload => Sys2Proof.Machine.execAck1 payload s
  | .ack3 payload => Sys2Proof.Machine.execAck3 payload s
  | .nak3 payload => Sys2Proof.Machine.execNak3 payload s
  | .vack4 payload => Sys2Proof.Machine.execVack4 payload s

end Sys2Proof.Machine
end

