-- ==== Sys2Proof/WellFormed.lean ====
section
/-! DEFINITION. Which terms of `Instr` stand for a byte sequence of their own: a command always does; a response does
when it fits the receive buffer (R8, R29) and no more specific pattern names the same bytes. -/

namespace Sys2Proof

/-- R8, R29: a response of `n` bytes fits the buffer, which is as deep as the longest length ever requested. -/
def fitsBuffer (n : Nat) : Bool := n ≤ rxbufDepth

/-- Bytes that only ANY1 describes: they begin with the header of no other pattern of R66. -/
def onlyAny (r : List Byte) : Bool :=
  !beginsWith Pattern.ack1.header r && !beginsWith Pattern.nak3.header r && !beginsWith Pattern.vack4.header r

/-- The term is the reading of some byte sequence. -/
def WellFormed : Instr → Bool
  | .haltStream       => true
  | .getInterval      => true
  | .vendorCode       => true
  | .serialNumber     => true
  | .hardwareRevision => true
  | .softwareRevision => true
  | .productName      => true
  | .partNumber       => true
  | .any1 first payload => fitsBuffer (payload.length + 1) && onlyAny (first :: payload)
  | .ack1 payload     => fitsBuffer (payload.length + 1) && !beginsWith [0x0A, 0x14] payload
  | .ack3 payload     => fitsBuffer (payload.length + 3)
  | .nak3 payload     => fitsBuffer (payload.length + 3)
  | .vack4 payload    => fitsBuffer (payload.length + 4)

end Sys2Proof
end

