-- ==== Sys2Proof/Decode.lean ====
section
/-! DEFINITION. The decoder of command frames (R60 to R65, R70), the decoder of responses (R66), both total and
rejecting by name; the encoder; and the reading of an opcode-table word. -/

namespace Sys2Proof

/-- Why a byte sequence is no instruction. -/
inductive DecodeError where
  /-- No byte at all. An empty response is legal (R13, R88) but begins with no pattern's header. -/
  | empty
  /-- A response longer than the receive buffer (R8, R29). -/
  | tooLong (n : Nat)
  /-- A command frame is 3, 5 or 12 bytes (R60, R73). -/
  | badLength (n : Nat)
  /-- The frame's byte sum is not 0 modulo 256 (R83). -/
  | badChecksum
  /-- The opcode bytes are those of no state (R72). -/
  | badOpcode
  /-- A query frame with a selector of 6 to 255, never sent (R64, R72). -/
  | reservedSelector (sel : Byte)
deriving DecidableEq, Repr

/-- The command of a protocol state (R70, one row per state). -/
def Instr.ofState : ProtoState → Instr
  | .haltStream       => .haltStream
  | .getInterval      => .getInterval
  | .vendorCode       => .vendorCode
  | .serialNumber     => .serialNumber
  | .hardwareRevision => .hardwareRevision
  | .softwareRevision => .softwareRevision
  | .productName      => .productName
  | .partNumber       => .partNumber

/-- The protocol state a command belongs to; a response belongs to none. -/
def Instr.command? : Instr → Option ProtoState
  | .haltStream       => some .haltStream
  | .getInterval      => some .getInterval
  | .vendorCode       => some .vendorCode
  | .serialNumber     => some .serialNumber
  | .hardwareRevision => some .hardwareRevision
  | .softwareRevision => some .softwareRevision
  | .productName      => some .productName
  | .partNumber       => some .partNumber
  | .any1 _ _         => none
  | .ack1 _           => none
  | .ack3 _           => none
  | .nak3 _           => none
  | .vack4 _          => none

/-- R64: the query command a selector byte asks for. -/
def decodeSelector (sel : Byte) : Except DecodeError Instr :=
  if sel = 0 then .ok .vendorCode
  else if sel = 1 then .ok .serialNumber
  else if sel = 2 then .ok .hardwareRevision
  else if sel = 3 then .ok .softwareRevision
  else if sel = 4 then .ok .productName
  else if sel = 5 then .ok .partNumber
  else .error (.reservedSelector sel)

/-- R60 to R64: the opcode bytes, told apart by length and content. -/
def decodeOpcode (op : List Byte) : Except DecodeError Instr :=
  if op = [0x10, 0x01] then .ok .haltStream
  else if op = [0x10, 0x02, 0x02, 0xFF] then .ok .getInterval
  else match beginsWith queryPrefix op, op.drop 10 with
    | true, [sel] => decodeSelector sel
    | _, _ => .error .badOpcode

/-- R60, R70, R83: a whole command frame, checksum byte included. -/
def decodeCommand (f : List Byte) : Except DecodeError Instr :=
  if f = [] then .error .empty
  else if f.length = 3 ∨ f.length = 5 ∨ f.length = 12 then
    if frameValid f then decodeOpcode f.dropLast else .error .badChecksum
  else .error (.badLength f.length)

/-- R66: a response, read under the most specific pattern it begins with. -/
def decodeResponse (r : List Byte) : Except DecodeError Instr :=
  if r.length > rxbufDepth then .error (.tooLong r.length)
  else if beginsWith Pattern.vack4.header r then .ok (.vack4 (r.drop 4))
  else if beginsWith Pattern.ack3.header r then .ok (.ack3 (r.drop 3))
  else if beginsWith Pattern.nak3.header r then .ok (.nak3 (r.drop 3))
  else if beginsWith Pattern.ack1.header r then .ok (.ack1 (r.drop 1))
  else match r with
    | [] => .error .empty
    | first :: payload => .ok (.any1 first payload)

/-- Either direction: a command frame where the bytes are one (R70), else a response. The block itself never has to
tell them apart, since the two travel in opposite directions (R43). -/
def decode (bytes : List Byte) : Except DecodeError Instr :=
  match decodeCommand bytes with
  | .ok i => .ok i
  | .error _ => decodeResponse bytes

/-- The bytes of an instruction: the opcode bytes of R70 and the checksum of R65, or the header of R66 and the
wildcard bytes. -/
def encode : Instr → List Byte
  | .haltStream       => buildFrame [0x10, 0x01]
  | .getInterval      => buildFrame [0x10, 0x02, 0x02, 0xFF]
  | .vendorCode       => buildFrame (queryPrefix ++ [0])
  | .serialNumber     => buildFrame (queryPrefix ++ [1])
  | .hardwareRevision => buildFrame (queryPrefix ++ [2])
  | .softwareRevision => buildFrame (queryPrefix ++ [3])
  | .productName      => buildFrame (queryPrefix ++ [4])
  | .partNumber       => buildFrame (queryPrefix ++ [5])
  | .any1 first payload => first :: payload
  | .ack1 payload     => Pattern.ack1.header ++ payload
  | .ack3 payload     => Pattern.ack3.header ++ payload
  | .nak3 payload     => Pattern.nak3.header ++ payload
  | .vack4 payload    => Pattern.vack4.header ++ payload

/-- R76: a table word is one number "whose most significant byte is offset 0"; its `n` bytes, offset 0 first. -/
def wordBytes : Nat → Nat → List Byte
  | 0, _ => []
  | n + 1, w => BitVec.ofNat 8 (w / 256 ^ n) :: wordBytes n w

/-- The bytes of a table row of `nbits` bits. -/
def tableBytes (nbits w : Nat) : List Byte := wordBytes (nbits / 8) w

/-- The instruction the decoder reads from a table word (R76). -/
def decodeTableWord (nbits w : Nat) : Option Instr :=
  if nbits % 8 = 0 then
    match decode (tableBytes nbits w) with
    | .ok i => some i
    | .error _ => none
  else none

end Sys2Proof
end

