-- ==== Sys2Proof/Machine/Sequencer.lean ====
section
/-! DEFINITION. The phase level: what one rising edge of `clk` does (R129 to R136). -/

namespace Sys2Proof.Machine

/-- R128: all inputs low, the straps steady. -/
def quietPorts (cfg : Config) : PortIn :=
  { rst := false
    cfgVendorLegacy := cfg.vendorMode == .legacy23
    cfgStrictLen := cfg.shortRead == .fullLength
    tickStart := false, txReady := false, rxValid := false, rxData := 0, rxDone := false, tpError := false }

/-- R130: the byte `b` on `tx_data` is transferred. -/
def State.transferByte (b : Byte) (s : State) : State :=
  if s.txidx.toNat = oplen s.state then
    { s with phase := .rx, ckacc := s.ckacc + b, wireTx := s.wireTx ++ [b], report := none }
  else
    { s with txidx := s.txidx + 1, ckacc := s.ckacc + b, wireTx := s.wireTx ++ [b], report := none }

/-- R129. -/
def edgeIdle (p : PortIn) (s : State) : Host.Outcome State Fault Refusal :=
  if p.tickStart && !s.fault then .next s.beginTick else .next s.hold

/-- R130, R135. -/
def edgeTx (p : PortIn) (s : State) : Host.Outcome State Fault Refusal :=
  if p.tpError then .next (s.takeTransportError .transmit)
  else if p.txReady then
    match s.txByte with
    | .error e => .fault e
    | .ok b => .next (s.transferByte b)
  else .next s.hold

/-- R132: the byte presented at this edge, if the receive takes it. -/
def State.acceptOffered (p : PortIn) (s : State) : State :=
  if p.rxValid && decide (s.rxcnt.toNat < respLen s.cfg s.state) then s.accept [p.rxData] else s

/-- R133: the receive ends when the transport says so or when all the bytes asked for are in. -/
def State.endReceive (done : Bool) (s : State) : State :=
  if done || s.rxcnt.toNat == respLen s.cfg s.state then { s with phase := .decide, report := none } else s.hold

/-- R132, R133, R135. -/
def edgeRx (p : PortIn) (s : State) : Host.Outcome State Fault Refusal :=
  if p.tpError then .next (s.takeTransportError .receive)
  else .next ((s.acceptOffered p).endReceive p.rxDone)

/-- R134: `tick_start` and `tp_error` are not looked at. -/
def edgeDecide (s : State) : Host.Outcome State Fault Refusal :=
  match s.response with
  | .error e => .fault e
  | .ok r => .next (s.decideTick s.state r)

/-- Vector T6 of spec/95_test_vectors.md: at a reset edge in phase TX the transport may take the byte it is offered
although the block's own registers are reset. notes/assumptions/3.md. -/
def State.takenAtReset (p : PortIn) (s : State) : State :=
  if s.phase = .tx && p.txReady && !p.tpError then
    match s.txByte with
    | .error _ => s
    | .ok b => { s with wireTx := s.wireTx ++ [b] }
  else s

/-- One rising edge. `rst` wins over everything (R136); a change of the straps without it is outside the spec (R30,
R182, U4). -/
def edge (p : PortIn) (s : State) : Host.Outcome State Fault Refusal :=
  if p.rst then .next ((s.takenAtReset p).hardReset p.config)
  else if p.config ≠ s.cfg then .refused .strapsChanged
  else match s.phase with
    | .idle   => edgeIdle p s
    | .tx     => edgeTx p s
    | .rx     => edgeRx p s
    | .decide => edgeDecide s

end Sys2Proof.Machine
end

