-- ==== Sys2Proof/Machine/Fetch.lean ====
section
/-! DEFINITION. Which instruction the next step runs, and what a step does when it runs none. STATE is the block's
program counter and ROM its program (R21, R41): a tick fetches the frame of STATE; an open receive fetches the response
from the wire. -/

namespace Sys2Proof.Machine

/-- R122, R132: the bytes the block takes next as an instruction, decoded: the command frame of STATE when a tick may
start, or the response as far as the open receive takes it. -/
def fetch (s : State) : Option Instr :=
  match s.inbox with
  | .tick _ _ :: _ => if s.canStart then (decodeCommand (frame s.state)).toOption else none
  | .response r :: _ => if s.phase = .rx then (decodeResponse (r.take s.room)).toOption else none
  | .edge _ :: _ => none
  | [] => none

/-- A step that runs no instruction: a clock edge as sampled, or with every input low when no input is listed; a tick
request that is ignored (R121); an empty answer to the open receive, or an answer nobody takes (R132). -/
def noInstruction (s : State) : Host.Outcome State Fault Refusal :=
  match s.inbox with
  | [] => edge (quietPorts s.cfg) s
  | .edge p :: _ => edge p s.consume
  | .tick _ _ :: _ => .next s.consume.hold
  | .response _ :: _ => respond [] s

/-- Everything it takes for the command of `p` to run next: `STATE` selects it, the block is idle and not faulted, and
the host asks for a tick, which the transport answers with nothing received. -/
def State.placeCommand (p : ProtoState) (s : State) : State :=
  { s with state := p, phase := .idle, fault := false, inbox := .tick .ok (.ok []) :: s.inbox }

/-- Everything it takes for a response to run next: a receive is open, nothing has arrived in it, and the transport
answers so. Where STATE asks for fewer bytes than these, the state that asks for most is selected (R71). -/
def State.placeResponse (r : List Byte) (s : State) : State :=
  if r.length ≤ respLen s.cfg s.state then
    { s with phase := .rx, rxcnt := 0, inbox := .response r :: s.inbox }
  else
    { s with
      state := .vendorCode, cfg := { s.cfg with vendorMode := .legacy23 }
      phase := .rx, rxcnt := 0, inbox := .response r :: s.inbox }

/-- The instruction `i`, whose bytes are `bytes`, is what the next step runs. -/
def State.placeInstr (i : Instr) (bytes : List Byte) (s : State) : State :=
  match i.command? with
  | some p => s.placeCommand p
  | none => s.placeResponse bytes

end Sys2Proof.Machine
end

