-- ==== Sys2Proof/Machine/Step.lean ====
section
/-! DEFINITION. One step of the machine: the instruction it fetches, or a step without one; and how a table word is
placed where the next step fetches. -/

namespace Sys2Proof.Machine

/-- One step. -/
def step (s : State) : Host.Outcome State Fault Refusal :=
  match fetch s with
  | some i => exec i s
  | none => noInstruction s

/-- The state in which the next step runs the instruction of a table word; a word that is none changes nothing. -/
def State.withFetchWord (s : State) (nbits w : Nat) : State :=
  match decodeTableWord nbits w with
  | some i => s.placeInstr i (tableBytes nbits w)
  | none => s

end Sys2Proof.Machine
end

