-- ==== Sys2Proof/Machine/Ports.lean ====
section
/-! DEFINITION. The output ports (R128), functions of the registers only; `none` where the spec leaves a port's value
unspecified (R26, R29, U1, U2), and on `tx_data` in a cycle with `PHASE` other than TX. -/

namespace Sys2Proof.Machine

/-- R128: every output port. -/
structure PortOut where
  busy            : Bool
  tickDone        : Bool
  state           : BitVec 3
  nextState       : Option (BitVec 3)
  cls             : Option (BitVec 2)
  shortRead       : Option Bool
  mismatch        : Option Bool
  stateChanged    : Option Bool
  sessionComplete : Option Bool
  protoReset      : Option Bool
  fault           : Bool
  faultPhase      : BitVec 1
  txValid         : Bool
  txData          : Option Byte
  txLast          : Bool
  txCksumOk       : Bool
  rxReq           : Bool
  rxMaxLen        : BitVec 5
  rxCnt           : BitVec 5
  rxBuf           : List (Option Byte)
deriving DecidableEq, Repr

/-- R134: the report the DECIDE cycle shows; it exists in no other cycle (R26, U2). -/
def State.deciding (s : State) : Option TickReport :=
  if s.phase = .decide then
    match s.response with
    | .ok r => some (tickReport s.cfg s.state r)
    | .error _ => none
  else none

/-- R128. `txData` follows R130, which defines `tx_data` in phase TX only; in every other phase the spec leaves it open
and the model shows no value: DESIGN CHOICE, notes/assumptions/17.md. -/
def State.ports (s : State) : PortOut :=
  { busy := s.phase != .idle
    tickDone := s.phase == .decide
    state := s.state.code
    nextState := s.deciding.map (fun t => t.next.code)
    cls := s.deciding.map (fun t => t.cls.code)
    shortRead := s.deciding.map (fun t => t.shortRead)
    mismatch := s.deciding.map (fun t => t.mismatch)
    stateChanged := s.deciding.map (fun t => t.stateChanged)
    sessionComplete := s.deciding.map (fun t => t.sessionComplete)
    protoReset := s.deciding.map (fun t => t.protoReset)
    fault := s.fault
    faultPhase := s.fphase.code
    txValid := s.phase == .tx
    txData := if s.phase = .tx then s.txByte.toOption else none
    txLast := s.phase == .tx && s.txidx.toNat == oplen s.state
    txCksumOk := s.ckacc == 0
    rxReq := s.phase == .rx
    rxMaxLen := BitVec.ofNat 5 (respLen s.cfg s.state)
    rxCnt := s.rxcnt
    rxBuf := (List.range rxbufDepth).map (fun i => (s.readRxBuf i).toOption) }

end Sys2Proof.Machine
end

