-- ==== Sys2Proof/Safety.lean ====
section
/-! DEFINITION. What a safe run is, in the terms the statements use: the invariant of the block's registers, runs of
steps, and runs of clock edges that make up one tick (R137). -/

namespace Sys2Proof.Machine

/-- What holds of the registers in every state a run reaches. -/
structure State.Inv (s : State) : Prop where
  /-- The receive buffer keeps its one form. -/
  bufWf : Memory.wf s.rxbuf
  /-- R29: `RXCNT` is 0 to 23. -/
  countFits : s.rxcnt.toNat ≤ rxbufDepth
  /-- R29: `RXBUF[i]` holds a byte for `0 <= i < RXCNT`. -/
  bufFilled : ∀ i < s.rxcnt.toNat, (s.rxbuf.read i).isSome = true
  /-- R130: in phase TX `TXIDX` never exceeds `oplen`, and `CKACC` is the sum of the bytes handed over. -/
  sending : s.phase = .tx →
    s.txidx.toNat ≤ oplen s.state ∧ s.ckacc = sum8 ((frame s.state).take s.txidx.toNat) ∧ s.rxcnt = 0
  /-- R131: after phase TX the whole frame is out and `CKACC` is 0. -/
  sent : s.phase = .rx ∨ s.phase = .decide → s.txidx.toNat = oplen s.state ∧ s.ckacc = 0
  /-- R133: an open receive still wants a byte. -/
  receiving : s.phase = .rx → s.rxcnt.toNat < respLen s.cfg s.state
  /-- R133: `RXCNT` never exceeds the length asked for. -/
  received : s.phase = .decide → s.rxcnt.toNat ≤ respLen s.cfg s.state
  /-- R121: no tick runs while `FAULT` = 1. -/
  faultStops : s.fault = true → s.phase = .idle
  /-- R25, U3: `FPHASE` reads 0 until a fault. -/
  fphaseClear : s.fault = false → s.fphase = .transmit

/-- Clock edges one after another, stopping at the first that does not answer a next state. -/
def runEdges : List PortIn → State → Host.Outcome State Fault Refusal
  | [], s => .next s
  | p :: ps, s =>
    match edge p s with
    | .next t => runEdges ps t
    | .fault e => .fault e
    | .refused e => .refused e

/-- Steps one after another, stopping at the first that does not answer a next state. -/
def runSteps : Nat → State → Host.Outcome State Fault Refusal
  | 0, s => .next s
  | n + 1, s =>
    match step s with
    | .next t => runSteps n t
    | .fault e => .fault e
    | .refused e => .refused e

/-- R137: no reset at the edge, and the straps as they are. -/
def PortIn.steady (cfg : Config) (p : PortIn) : Prop := p.rst = false ∧ p.config = cfg

/-- R137: a run of edges that begins at the edge where R129 starts a tick and ends at the first later edge that sets
`PHASE <- IDLE`, with `rst` = 0 throughout: from `s`, it leaves `t`. -/
def IsTickRun (ps : List PortIn) (s t : State) : Prop :=
  s.canStart = true ∧ (∀ p ∈ ps, p.steady s.cfg) ∧ (∃ p, ps.head? = some p ∧ p.tickStart = true) ∧
  runEdges ps s = .next t ∧ t.phase = .idle ∧
  ∀ n, 0 < n → n < ps.length → ∀ u, runEdges (ps.take n) s = .next u → u.phase ≠ .idle

/-- The first `n` edges of an endless sequence. -/
def firstEdges (w : Nat → PortIn) (n : Nat) : List PortIn := (List.range n).map w

/-- R180: the fairness assumption on the transport, over an endless sequence of edges from `s` on. It is a premise and
no property of the block, and is the duty of R138. notes/assumptions/18.md. -/
structure FairTransport (w : Nat → PortIn) (s : State) : Prop where
  /-- A byte on offer is accepted at some later edge, or the transport reports a fault. -/
  accepts : ∀ n t, runEdges (firstEdges w n) s = .next t → t.phase = .tx →
    ∃ m, n ≤ m ∧ ((w m).txReady = true ∨ (w m).tpError = true)
  /-- An open receive is not left without a byte, its end or a fault for ever. Since the bytes asked for are finitely
  many (R133), this is to say that the receive ends: "`rx_done`, or enough bytes, or `tp_error`". -/
  endsReceive : ∀ n t, runEdges (firstEdges w n) s = .next t → t.phase = .rx →
    ∃ m, n ≤ m ∧ ((w m).rxValid = true ∨ (w m).rxDone = true ∨ (w m).tpError = true)

/-- R137: "Let `tx = error` if that edge was reached from phase TX by rule R135, else `tx = ok`": read off the end state
`t`, with the bytes handed over since `s`. -/
def txOfRun (s t : State) : TxAnswer :=
  if t.fault = true ∧ t.fphase = .transmit then .error (t.wireTx.length - s.wireTx.length) else .ok

/-- R137: "let `rx = error` if it was reached from phase RX by rule R135; else let `rx = ok(r)` with `r` the bytes
accepted by rule R132, in order". -/
def rxOfRun (r : List Byte) (t : State) : RxAnswer := if t.fault = true then .error r else .ok r

/-- The response `r` judged by a minimum length `m`, an ack header and the Nak header, with the rule's own bytes. -/
def judged (m : Nat) (ack : List Byte) (r : List Byte) : Classification :=
  if r.length < m then .incomplete
  else if r.take ack.length = ack then .ack
  else if r.take 3 = [0x15, 0x0A, 0x01] then .nak
  else .unrecognized

/-- The state a completed tick leaves when it started in `s` in the protocol state `p`: it sent the bytes `f`, asked
for `L` bytes, was answered `r`, classified it `c` and moved STATE to `q`; `rest` is what the outside does next. Every
other field is as it was. -/
def completed (s : State) (rest : List Input) (p q : ProtoState) (f : List Byte) (L : Nat) (r : List Byte)
    (c : Classification) : State :=
  { s with
    state := q, phase := .idle, txidx := BitVec.ofNat 4 (f.length - 1), ckacc := 0
    rxcnt := BitVec.ofNat 5 (min r.length L), rxbuf := s.rxbuf.writeBytes 0 (r.take L)
    wireTx := s.wireTx ++ f, inbox := rest
    report := some
      { start := p, frame := f, maxLen := L, response := r.take L, cls := c
        shortRead := decide (r.length < L), mismatch := decide (c = .unrecognized), stateChanged := decide (q ≠ p)
        sessionComplete := decide (p = .partNumber ∧ c = .ack)
        protoReset := decide (3 ≤ p.code.toNat ∧ c = .nak), next := q } }

/-- The host asks for a tick, the block can run it, and the transport answers so. -/
def Requested (s : State) (tx : TxAnswer) (rx : RxAnswer) (rest : List Input) : Prop :=
  s.inbox = .tick tx rx :: rest ∧ s.phase = .idle ∧ s.fault = false

/-- The bytes a tick of `p` stores in the receive buffer, from offset 0 on (R42, R124, R133). -/
def storedByTick (cfg : Config) (p : ProtoState) : TxAnswer → RxAnswer → List Byte
  | .error _, _ => []
  | .ok, .ok r => r.take (respLen cfg p)
  | .ok, .error got => got.take (respLen cfg p - 1)

/-- The next input is an edge with `rst` = 1. -/
def State.resetNext (s : State) : Prop := ∃ p rest, s.inbox = .edge p :: rest ∧ p.rst = true

end Sys2Proof.Machine
end

