-- ==== Sys2Proof/Certificates/Slice0/Obligations.lean ====
section
/-! DEFINITION. The statements about the model, one for each entry of OBLIGATIONS.json. -/

open Sys2Proof Sys2Proof.Machine

/-! ## Encodings -/

/-- R70, R66: words of the opcode table, written out byte by byte, decode to the instructions they stand for.
The order of a table word's bytes is notes/assumptions/9.md, responses as instructions notes/assumptions/1.md. -/
def Obligations.TableWordsDecode : Prop :=
  decodeTableWord 24 0x1001EF = some .haltStream ∧
  decodeTableWord 40 0x100202FFED = some .getInterval ∧
  decodeTableWord 96 0x100A0A0000000000000000DC = some .vendorCode ∧
  decodeTableWord 96 0x100A0A0000000000000001DB = some .serialNumber ∧
  decodeTableWord 96 0x100A0A0000000000000005D7 = some .partNumber ∧
  decodeTableWord 8 0x06 = some (.ack1 []) ∧
  decodeTableWord 8 0x00 = some (.any1 0x00 []) ∧
  decodeTableWord 24 0x060A14 = some (.ack3 []) ∧
  decodeTableWord 24 0x150A01 = some (.nak3 []) ∧
  decodeTableWord 32 0x5B060A14 = some (.vack4 [])

/-- Every well-formed instruction, with every operand at every value its encoding admits, is read back from its bytes:
a command by the decoder of frames (R70), a response by the decoder of responses (R66).
Responses as instructions: the model's choice, notes/assumptions/1.md. -/
def Obligations.DecodeOfEncodeIsTheInstruction : Prop :=
  ∀ i : Instr, WellFormed i = true →
    (i.command?.isSome = true → decodeCommand (encode i) = .ok i) ∧
    (i.command? = none → decodeResponse (encode i) = .ok i)

/-- R72: "the block can emit the eight frames of rule R70 and no other byte string": the decoder of frames accepts
those eight byte strings and nothing else. -/
def Obligations.OnlyTheEightFramesAreCommands : Prop :=
  ∀ (f : List Byte) (i : Instr), decodeCommand f = .ok i ↔ ∃ p, f = frame p ∧ i = Instr.ofState p

/-- R72: every byte string from length 1 to the buffer's depth is a response, and reading it loses no byte.
Responses as instructions: the model's choice, notes/assumptions/1.md. -/
def Obligations.EveryResponseDecodesWithoutLoss : Prop :=
  ∀ r : List Byte,
    (r ≠ [] ∧ r.length ≤ rxbufDepth → ∃ i, decodeResponse r = .ok i) ∧
    (∀ i, decodeResponse r = .ok i → r ≠ [] ∧ r.length ≤ rxbufDepth ∧ WellFormed i = true ∧ encode i = r)

/-- R66, R85: the pattern a response is read under is the most specific one that matches it.
Responses as instructions: the model's choice, notes/assumptions/1.md. -/
def Obligations.ResponsesAreReadUnderTheMostSpecificPattern : Prop :=
  ∀ (r : List Byte) (i : Instr), decodeResponse r = .ok i →
    Pattern.any1.matches r = true ∧
    (Pattern.ack1.matches r = true ↔ (∃ pl, i = .ack1 pl) ∨ (∃ pl, i = .ack3 pl)) ∧
    (Pattern.ack3.matches r = true ↔ ∃ pl, i = .ack3 pl) ∧
    (Pattern.nak3.matches r = true ↔ ∃ pl, i = .nak3 pl) ∧
    (Pattern.vack4.matches r = true ↔ ∃ pl, i = .vack4 pl)

/-! ## The frame codec -/

/-- R80. -/
def Obligations.ByteSumWrapsModulo256 : Prop :=
  sum8 [] = 0 ∧ ∀ x : List Byte, (sum8 x).toNat = byteSum x % 256

/-- R81: the source's formula, the equivalent forms the rule lists, the corner case and the example. -/
def Obligations.ChecksumFormsAgree : Prop :=
  (∀ x : List Byte,
    (cksum x).toNat = (256 - byteSum x % 256) % 256 ∧
    (cksum x).toNat = (256 - (sum8 x).toNat) % 256 ∧
    cksum x = 0 - sum8 x ∧
    cksum x = ~~~(sum8 x) + 1 ∧
    (sum8 x = 0 → cksum x = 0) ∧
    (cksum x).toNat ≤ 255) ∧
  cksum [0x10, 0x02, 0x02, 0xFF] = 0xED

/-- R82 for every opcode, and its frames of R70. -/
def Obligations.BuiltFrameKeepsTheOpcodeAndAddsOneByte : Prop :=
  (∀ x : List Byte, buildFrame x = x ++ [cksum x] ∧ (buildFrame x).length = x.length + 1) ∧
  (∀ p, frame p = buildFrame (rom p) ∧ (rom p).length = oplen p) ∧
  frame .haltStream = [0x10, 0x01, 0xEF] ∧
  frame .getInterval = [0x10, 0x02, 0x02, 0xFF, 0xED] ∧
  frame .vendorCode = [0x10, 0x0A, 0x0A, 0, 0, 0, 0, 0, 0, 0, 0x00, 0xDC] ∧
  frame .serialNumber = [0x10, 0x0A, 0x0A, 0, 0, 0, 0, 0, 0, 0, 0x01, 0xDB] ∧
  frame .hardwareRevision = [0x10, 0x0A, 0x0A, 0, 0, 0, 0, 0, 0, 0, 0x02, 0xDA] ∧
  frame .softwareRevision = [0x10, 0x0A, 0x0A, 0, 0, 0, 0, 0, 0, 0, 0x03, 0xD9] ∧
  frame .productName = [0x10, 0x0A, 0x0A, 0, 0, 0, 0, 0, 0, 0, 0x04, 0xD8] ∧
  frame .partNumber = [0x10, 0x0A, 0x0A, 0, 0, 0, 0, 0, 0, 0, 0x05, 0xD7]

/-- R83: a built frame is valid whatever its opcode bytes, and no other last byte would make it so. -/
def Obligations.OnlyTheComputedChecksumMakesAFrameValid : Prop :=
  ∀ (x : List Byte) (b : Byte), frameValid (x ++ [b]) = true ↔ b = cksum x

/-! ## Classification and transition -/

/-- R88: the length test comes first; Ack and Nak then say which header of R66 the response begins with. -/
def Obligations.ClassificationFollowsLengthAndHeaders : Prop :=
  ∀ (cfg : Config) (p : ProtoState) (r : List Byte),
    (classify cfg p r = .incomplete ↔ r.length < minLen cfg p) ∧
    (classify cfg p r = .ack ↔
      minLen cfg p ≤ r.length ∧ r.take (ackPat cfg p).header.length = (ackPat cfg p).header) ∧
    (classify cfg p r = .nak ↔
      minLen cfg p ≤ r.length ∧ (nakPat p).isSome = true ∧ r.take 3 = [0x15, 0x0A, 0x01]) ∧
    (classify cfg p r = .unrecognized ↔
      minLen cfg p ≤ r.length ∧ r.take (ackPat cfg p).header.length ≠ (ackPat cfg p).header ∧
        ¬((nakPat p).isSome = true ∧ r.take 3 = [0x15, 0x0A, 0x01]))

/-- R89 (6): "Bytes at offset 4 and above never change the result". -/
def Obligations.BytesPastTheHeaderNeverMatter : Prop :=
  ∀ (cfg : Config) (p : ProtoState) (r r' : List Byte),
    r.length = r'.length → r.take 4 = r'.take 4 → classify cfg p r = classify cfg p r'

/-- R89 (2), (4), (5): Ack and Nak exclude each other, and what the first two states can never report. -/
def Obligations.ImpossibleClassificationsNeverOccur : Prop :=
  ∀ (cfg : Config) (r : List Byte),
    (∀ p q, nakPat p = some q → ¬((ackPat cfg p).matches r = true ∧ q.matches r = true)) ∧
    (classify cfg .haltStream r = if r = [] then .incomplete else .ack) ∧
    classify cfg .getInterval r ≠ .nak

/-- R87, with R86's extents and R71's lengths written out. -/
def Obligations.MinimumLengthOfEveryState : Prop :=
  ∀ v : VendorMode,
    (∀ p, minLen { vendorMode := v, shortRead := .patternExtent } p =
      match p with
      | .haltStream => 1
      | .getInterval => 1
      | .vendorCode => if v = .legacy23 then 4 else 3
      | .serialNumber => 3
      | .hardwareRevision => 3
      | .softwareRevision => 3
      | .productName => 3
      | .partNumber => 3) ∧
    (∀ p, minLen { vendorMode := v, shortRead := .fullLength } p =
      match p with
      | .haltStream => 1
      | .getInterval => 5
      | .vendorCode => if v = .legacy23 then 23 else 12
      | .serialNumber => 12
      | .hardwareRevision => 12
      | .softwareRevision => 12
      | .productName => 12
      | .partNumber => 12)

/-- R90, R88: under `FULL_LENGTH`, outside HaltStream, a short read is Incomplete; an empty response is Incomplete
everywhere; and a mismatch is exactly Unrecognized. -/
def Obligations.ShortReadsAndMismatchesAreReported : Prop :=
  ∀ (cfg : Config) (p : ProtoState) (r : List Byte),
    ((tickReport cfg p r).shortRead = true ↔ r.length < respLen cfg p) ∧
    ((tickReport cfg p r).mismatch = true ↔ classify cfg p r = .unrecognized) ∧
    (cfg.shortRead = .fullLength → p ≠ .haltStream → (tickReport cfg p r).shortRead = true →
      classify cfg p r = .incomplete) ∧
    classify cfg p [] = .incomplete

/-- R23: the table, cell by cell; the cells that cannot occur are the model's choice `s`, notes/assumptions/7.md. -/
def Obligations.TransitionTable : Prop :=
  (∀ c, next .haltStream c = if c = .ack then .getInterval else .haltStream) ∧
  (∀ c, next .getInterval c = if c = .ack then .vendorCode else .getInterval) ∧
  (∀ c, next .vendorCode c = if c = .ack then .serialNumber else .vendorCode) ∧
  ∀ p q, (p, q) ∈ [(ProtoState.serialNumber, ProtoState.hardwareRevision), (.hardwareRevision, .softwareRevision),
      (.softwareRevision, .productName), (.productName, .partNumber), (.partNumber, .partNumber)] →
    next p .ack = q ∧ next p .nak = .haltStream ∧ next p .unrecognized = p ∧ next p .incomplete = p

/-- R117, R23 of the whole machine: whatever happens in a step, STATE stays, moves one step forward, or goes to
HaltStream. -/
def Obligations.NoStepSkipsAState : Prop :=
  ∀ s t : State, step s = .next t →
    t.state = s.state ∨ t.state.code.toNat = s.state.code.toNat + 1 ∨ t.state = .haltStream

/-- R23, R171: HaltStream is reached from another state by a hardware reset or by an explicit Nak at a query state, and
by nothing else.
The report is the model's field, notes/assumptions/6.md. -/
def Obligations.GoingBackTakesANakOrAReset : Prop :=
  ∀ s t : State, step s = .next t → s.state ≠ .haltStream → t.state = .haltStream →
    s.resetNext ∨
      (3 ≤ s.state.code.toNat ∧ ∃ rep, t.report = some rep ∧ rep.cls = .nak ∧ rep.protoReset = true ∧
        rep.stateChanged = true)

/-- R21, R125: STATE is written by a completed tick, from its own state to the one its report names, or by a hardware
reset, and by nothing else: not by the host, not by the transport, not by a faulted tick.
The report is the model's field, notes/assumptions/6.md. -/
def Obligations.OnlyACompletedTickWritesState : Prop :=
  ∀ s t : State, step s = .next t → t.state ≠ s.state →
    s.resetNext ∨
      ∃ rep, t.report = some rep ∧ rep.start = s.state ∧ rep.next = t.state ∧ rep.stateChanged = true ∧
        t.phase = .idle ∧ t.fault = s.fault

/-! ## The tick of each state -/

/-- R101: HaltStream, whole. It completes on every response, and "any non-empty response, regardless of content"
advances.
The outputs stand in the model's report field, notes/assumptions/6.md. -/
def Obligations.HaltStreamTick : Prop :=
  (∀ cfg, respLen cfg .haltStream = 4 ∧ ackPat cfg .haltStream = .any1 ∧ minLen cfg .haltStream = 1) ∧
  ∀ (s : State) (r : List Byte) (rest : List Input), Requested s .ok (.ok r) rest →
    exec .haltStream s = .next
      (completed s rest .haltStream (if r = [] then .haltStream else .getInterval) [0x10, 0x01, 0xEF] 4 r
        (if r = [] then .incomplete else .ack))

/-- R102: GetInterval, whole. Only byte 0 is judged, and there is no Nak.
The outputs stand in the model's report field, notes/assumptions/6.md. -/
def Obligations.GetIntervalTick : Prop :=
  (∀ cfg, respLen cfg .getInterval = 5 ∧ ackPat cfg .getInterval = .ack1 ∧
    minLen cfg .getInterval = if cfg.shortRead = .fullLength then 5 else 1) ∧
  ∀ (s : State) (r : List Byte) (rest : List Input) (c : Classification), Requested s .ok (.ok r) rest →
    c = (if (r.take 5).length < (if s.cfg.shortRead = .fullLength then 5 else 1) then .incomplete
      else if r.head? = some 0x06 then .ack else .unrecognized) →
    exec .getInterval s = .next
      (completed s rest .getInterval (if c = .ack then .vendorCode else .getInterval)
        [0x10, 0x02, 0x02, 0xFF, 0xED] 5 r c)

/-- R105: VendorCode under `CANONICAL12`. A Nak is reported and retries all the same.
The outputs stand in the model's report field, notes/assumptions/6.md. -/
def Obligations.VendorCodeTickCanonical : Prop :=
  (∀ v, respLen { vendorMode := .canonical12, shortRead := v } .vendorCode = 12 ∧
    ackPat { vendorMode := .canonical12, shortRead := v } .vendorCode = .ack3 ∧ nakPat .vendorCode = some .nak3) ∧
  ∀ (s : State) (r : List Byte) (rest : List Input) (c : Classification), Requested s .ok (.ok r) rest →
    s.cfg.vendorMode = .canonical12 →
    c = judged (if s.cfg.shortRead = .fullLength then 12 else 3) [0x06, 0x0A, 0x14] (r.take 12) →
    exec .vendorCode s = .next
      (completed s rest .vendorCode (if c = .ack then .serialNumber else .vendorCode)
        [0x10, 0x0A, 0x0A, 0, 0, 0, 0, 0, 0, 0, 0x00, 0xDC] 12 r c)

/-- R106: VendorCode under `LEGACY23`: the same frame, a longer read and a longer header.
The outputs stand in the model's report field, notes/assumptions/6.md. -/
def Obligations.VendorCodeTickLegacy : Prop :=
  (∀ v, respLen { vendorMode := .legacy23, shortRead := v } .vendorCode = 23 ∧
    ackPat { vendorMode := .legacy23, shortRead := v } .vendorCode = .vack4 ∧ nakPat .vendorCode = some .nak3) ∧
  ∀ (s : State) (r : List Byte) (rest : List Input) (c : Classification), Requested s .ok (.ok r) rest →
    s.cfg.vendorMode = .legacy23 →
    c = judged (if s.cfg.shortRead = .fullLength then 23 else 4) [0x5B, 0x06, 0x0A, 0x14] (r.take 23) →
    exec .vendorCode s = .next
      (completed s rest .vendorCode (if c = .ack then .serialNumber else .vendorCode)
        [0x10, 0x0A, 0x0A, 0, 0, 0, 0, 0, 0, 0, 0x00, 0xDC] 23 r c)

/-- R110 to R115: the five query states SerialNumber, HardwareRevision, SoftwareRevision, ProductName and PartNumber,
in both vendor modes.
The outputs stand in the model's report field, notes/assumptions/6.md. -/
def Obligations.QueryTicks : Prop :=
  ∀ (i : Instr) (p q : ProtoState) (sel : Byte),
    (i, p, q, sel) ∈ [(Instr.serialNumber, ProtoState.serialNumber, ProtoState.hardwareRevision, (1 : Byte)),
      (.hardwareRevision, .hardwareRevision, .softwareRevision, 2),
      (.softwareRevision, .softwareRevision, .productName, 3),
      (.productName, .productName, .partNumber, 4),
      (.partNumber, .partNumber, .partNumber, 5)] →
    (∀ cfg, respLen cfg p = 12 ∧ ackPat cfg p = .ack3 ∧ nakPat p = some .nak3 ∧ sel = p.code.setWidth 8 - 2) ∧
    ∀ (s : State) (r : List Byte) (rest : List Input) (c : Classification), Requested s .ok (.ok r) rest →
      c = judged (if s.cfg.shortRead = .fullLength then 12 else 3) [0x06, 0x0A, 0x14] (r.take 12) →
      exec i s = .next
        (completed s rest p (if c = .ack then q else if c = .nak then .haltStream else p)
          [0x10, 0x0A, 0x0A, 0, 0, 0, 0, 0, 0, 0, sel, 0xDC - sel] 12 r c)

/-- R123, R143: a transport that fails the transmit, in the tick of any state. What had been handed over is some prefix
of the frame without its last byte; no receive is made, so `RXBUF` is untouched.
How many bytes: the model's input, notes/assumptions/12.md. -/
def Obligations.TransmitFaultIsTaken : Prop :=
  ∀ (p : ProtoState) (s : State) (k : Nat) (rx : RxAnswer) (rest : List Input), Requested s (.error k) rx rest →
    exec (Instr.ofState p) s = .next
      { s with
        fault := true, fphase := .transmit, phase := .idle
        txidx := BitVec.ofNat 4 (min k (oplen p)), ckacc := sum8 ((frame p).take (min k (oplen p))), rxcnt := 0
        wireTx := s.wireTx ++ (frame p).take (min k (oplen p)), inbox := rest, report := none }

/-- R124, R143: a transport that fails the receive, in the tick of any state, after delivering `got`; and a transport
that delivers more than was asked for, whose excess is dropped.
The bytes before the failure: the model's input, notes/assumptions/12.md. -/
def Obligations.ReceiveFaultIsTakenAndOverDeliveryIsCut : Prop :=
  (∀ (p : ProtoState) (s : State) (got : List Byte) (rest : List Input), Requested s .ok (.error got) rest →
    exec (Instr.ofState p) s = .next
      { s with
        fault := true, fphase := .receive, phase := .idle
        txidx := BitVec.ofNat 4 (oplen p), ckacc := 0
        rxcnt := BitVec.ofNat 5 (got.take (respLen s.cfg p - 1)).length
        rxbuf := s.rxbuf.writeBytes 0 (got.take (respLen s.cfg p - 1))
        wireTx := s.wireTx ++ frame p, inbox := rest, report := none }) ∧
  (∀ (p : ProtoState) (s : State) (r more : List Byte) (rest : List Input), r.length = respLen s.cfg p →
    exec (Instr.ofState p) { s with inbox := .tick .ok (.ok (r ++ more)) :: rest } =
      exec (Instr.ofState p) { s with inbox := .tick .ok (.ok r) :: rest })

/-- R121: a request made while a tick runs or while `FAULT` = 1 is ignored, by a step and by every command. -/
def Obligations.RequestsAreIgnoredWhileBusyOrFaulted : Prop :=
  ∀ (s : State) (tx : TxAnswer) (rx : RxAnswer) (rest : List Input), s.inbox = .tick tx rx :: rest →
    (s.phase ≠ .idle ∨ s.fault = true) →
    step s = .next { s with inbox := rest, report := none } ∧
    ∀ p, exec (Instr.ofState p) s = .next { s with inbox := rest, report := none }

/-- R116: a Nak header resets from every query state to HaltStream, in a step of the machine. -/
def Obligations.NakResetsFromEveryQueryState : Prop :=
  ∀ (s : State) (r : List Byte) (rest : List Input), Requested s .ok (.ok r) rest → 3 ≤ s.state.code.toNat →
    r.take 3 = [0x15, 0x0A, 0x01] → (s.cfg.shortRead = .fullLength → 12 ≤ r.length) →
    ∃ t rep, step s = .next t ∧ t.state = .haltStream ∧ t.fault = false ∧ t.report = some rep ∧
      rep.protoReset = true ∧ rep.cls = .nak

/-- The frame of the eight commands. With a tick at the head of the inputs that can run, the bytes stored are
`storedByTick` from offset 0 on, and every other cell of `RXBUF` reads as before; the straps stay; STATE is that of
before or of the tick's transition; FAULT and FPHASE change only by a TransportError; the wire only grows, by a prefix of
the command's frame. -/
def Obligations.CommandsChangeNothingElse : Prop :=
  ∀ (p : ProtoState) (s t : State) (tx : TxAnswer) (rx : RxAnswer) (rest : List Input), Requested s tx rx rest →
    exec (Instr.ofState p) s = .next t →
    t.cfg = s.cfg ∧ t.inbox = rest ∧ t.phase = .idle ∧
    (∀ a, (storedByTick s.cfg p tx rx).length ≤ a → t.rxbuf.read a = s.rxbuf.read a) ∧
    (∀ a, a < (storedByTick s.cfg p tx rx).length → t.rxbuf.read a = (storedByTick s.cfg p tx rx)[a]?) ∧
    t.rxcnt.toNat = (storedByTick s.cfg p tx rx).length ∧
    (tx = .ok → (∃ r, rx = .ok r) → t.fault = false ∧ t.fphase = s.fphase ∧ t.wireTx = s.wireTx ++ frame p) ∧
    (tx = .ok → ∀ r, rx = .ok r → t.state = next p (classify s.cfg p (r.take (respLen s.cfg p)))) ∧
    ((∃ k, tx = .error k) ∨ (∃ got, rx = .error got) → t.state = s.state ∧ t.fault = true) ∧
    ∃ n, t.wireTx = s.wireTx ++ (frame p).take n

/-! ## Responses -/

/-- R132 to R134, R66: a response of any of the five patterns, taken by an open receive. The bytes that fit are stored
after those already there (`r0`), the receive ends, and the whole response is judged by the pattern of STATE.
Responses as instructions: the model's choice, notes/assumptions/1.md. -/
def Obligations.ResponseIsTakenAndDecided : Prop :=
  ∀ (i : Instr) (s : State) (r0 bs : List Byte) (c : Classification), i.command? = none → s.phase = .rx →
    s.response = .ok r0 → s.rxcnt.toNat ≤ respLen s.cfg s.state →
    bs = (encode i).take (respLen s.cfg s.state - s.rxcnt.toNat) → c = classify s.cfg s.state (r0 ++ bs) →
    exec i s = .next
      { s with
        state := next s.state c, phase := .idle
        rxcnt := BitVec.ofNat 5 (r0 ++ bs).length, rxbuf := s.rxbuf.writeBytes s.rxcnt.toNat bs
        inbox := s.inbox.tail
        report := some
          { start := s.state, frame := frame s.state, maxLen := respLen s.cfg s.state, response := r0 ++ bs, cls := c
            shortRead := decide ((r0 ++ bs).length < respLen s.cfg s.state)
            mismatch := decide (c = .unrecognized), stateChanged := decide (next s.state c ≠ s.state)
            sessionComplete := decide (s.state = .partNumber ∧ c = .ack)
            protoReset := decide (3 ≤ s.state.code.toNat ∧ c = .nak), next := next s.state c } }

/-- R66, R86, R87, R101 to R115: what each pattern's header does in the states that look for it, the receive being
fresh. Where the header moves the state, the whole response, header and payload, is at least as long as the policy asks;
HaltStream needs its one byte only, and a state that stays does so whatever the length.
Responses as instructions: the model's choice, notes/assumptions/1.md. -/
def Obligations.HeadersMoveTheStatesThatLookForThem : Prop :=
  ∀ (s : State) (pl : List Byte), s.phase = .rx → s.rxcnt = 0 →
    (∀ b, s.state = .haltStream → ∃ t, exec (.any1 b pl) s = .next t ∧ t.state = .getInterval) ∧
    (s.state = .getInterval → minLen s.cfg s.state ≤ 1 + pl.length →
      ∃ t, exec (.ack1 pl) s = .next t ∧ t.state = .vendorCode) ∧
    (s.state = .vendorCode → s.cfg.vendorMode = .canonical12 → minLen s.cfg s.state ≤ 3 + pl.length →
      ∃ t, exec (.ack3 pl) s = .next t ∧ t.state = .serialNumber) ∧
    (s.state = .vendorCode → s.cfg.vendorMode = .legacy23 → minLen s.cfg s.state ≤ 4 + pl.length →
      ∃ t, exec (.vack4 pl) s = .next t ∧ t.state = .serialNumber) ∧
    (s.state = .vendorCode → s.cfg.vendorMode = .canonical12 →
      ∃ t, exec (.vack4 pl) s = .next t ∧ t.state = .vendorCode) ∧
    (s.state = .vendorCode → ∃ t, exec (.nak3 pl) s = .next t ∧ t.state = .vendorCode) ∧
    (3 ≤ s.state.code.toNat → minLen s.cfg s.state ≤ 3 + pl.length →
      ∃ t, exec (.ack3 pl) s = .next t ∧ t.state.code.toNat = min 7 (s.state.code.toNat + 1)) ∧
    (3 ≤ s.state.code.toNat → minLen s.cfg s.state ≤ 3 + pl.length →
      ∃ t, exec (.nak3 pl) s = .next t ∧ t.state = .haltStream)

/-- R132: "A byte presented while `rx_req = 0` is not taken by the block": a response outside phase RX is dropped.
Responses as instructions: the model's choice, notes/assumptions/1.md. -/
def Obligations.ResponseOutsideAReceiveIsNotTaken : Prop :=
  ∀ (i : Instr) (s : State), i.command? = none → s.phase ≠ .rx →
    exec i s = .next { s with inbox := s.inbox.tail, report := none }

/-- The frame of the five responses: the bytes stored begin at `RXCNT` and fit the length asked for; every other cell of
`RXBUF`, and everything of the transmit side, stays.
Responses as instructions: the model's choice, notes/assumptions/1.md. -/
def Obligations.ResponsesChangeNothingElse : Prop :=
  ∀ (i : Instr) (s t : State), i.command? = none → exec i s = .next t →
    t.fault = s.fault ∧ t.fphase = s.fphase ∧ t.txidx = s.txidx ∧ t.ckacc = s.ckacc ∧ t.cfg = s.cfg ∧
    t.wireTx = s.wireTx ∧ t.inbox = s.inbox.tail ∧
    (s.phase ≠ .rx → t.state = s.state ∧ t.phase = s.phase ∧ t.rxcnt = s.rxcnt ∧ t.rxbuf = s.rxbuf) ∧
    (∀ a, a < s.rxcnt.toNat ∨ s.rxcnt.toNat + ((encode i).take (respLen s.cfg s.state - s.rxcnt.toNat)).length ≤ a →
      t.rxbuf.read a = s.rxbuf.read a)

/-- R126 as its two halves: a tick whose transmit succeeds is the transmit followed by the response instruction the
answer decodes to.
Responses as instructions: the model's choice, notes/assumptions/1.md. -/
def Obligations.TickIsTransmitThenResponse : Prop :=
  ∀ (s : State) (r : List Byte) (rest : List Input) (i : Instr), Requested s .ok (.ok r) rest →
    decodeResponse (r.take (respLen s.cfg s.state)) = .ok i →
    step s = exec i ((s.beginTick.transmit s.state (framelen s.state)).openReceive)

/-! ## Clock edges -/

/-- R129. -/
def Obligations.IdleEdgeStartsATick : Prop :=
  ∀ (p : PortIn) (s : State), p.steady s.cfg → s.phase = .idle →
    edge p s = .next
      (if p.tickStart = true ∧ s.fault = false then
        { s with phase := .tx, txidx := 0, ckacc := 0, rxcnt := 0, report := none }
      else { s with report := none })

/-- R130: the byte on `tx_data` is the frame's byte at `TXIDX`, computed checksum included; it is transferred when the
transport is ready and offered again when not; `CKACC` stays the sum of what was handed over. -/
def Obligations.TransmitEdgeHandsOverTheFrame : Prop :=
  ∀ (p : PortIn) (s : State), s.Inv → p.steady s.cfg → s.phase = .tx → p.tpError = false →
    s.ports.txValid = true ∧ s.ports.txData = (frame s.state)[s.txidx.toNat]? ∧
    (s.ports.txLast = true ↔ s.txidx.toNat = oplen s.state) ∧
    (p.txReady = false → edge p s = .next { s with report := none }) ∧
    (p.txReady = true → ∃ b, (frame s.state)[s.txidx.toNat]? = some b ∧
      edge p s = .next
        { s with
          phase := if s.txidx.toNat = oplen s.state then .rx else .tx
          txidx := if s.txidx.toNat = oplen s.state then s.txidx else s.txidx + 1
          ckacc := sum8 ((frame s.state).take (s.txidx.toNat + 1))
          wireTx := s.wireTx ++ [b], report := none })

/-- R132, R133: a presented byte is stored at `RXCNT` while fewer than `L` are in, and the receive ends when the
transport says so or when `L` bytes are in, a byte presented with `rx_done` being taken first. -/
def Obligations.ReceiveEdgeStoresAndEnds : Prop :=
  ∀ (p : PortIn) (s : State) (cnt : BitVec 5), p.steady s.cfg → s.phase = .rx → p.tpError = false →
    cnt = (if p.rxValid = true ∧ s.rxcnt.toNat < respLen s.cfg s.state then s.rxcnt + 1 else s.rxcnt) →
    s.ports.rxReq = true ∧ s.ports.rxMaxLen.toNat = respLen s.cfg s.state ∧
    edge p s = .next
      { s with
        rxbuf := if p.rxValid = true ∧ s.rxcnt.toNat < respLen s.cfg s.state then
          s.rxbuf.write s.rxcnt.toNat p.rxData else s.rxbuf
        rxcnt := cnt
        phase := if p.rxDone = true ∨ cnt.toNat = respLen s.cfg s.state then .decide else .rx
        report := none }

/-- R134, R26: the DECIDE cycle shows the outputs of the classification of `RXBUF[0:RXCNT]`, and the edge that ends it
writes STATE, whatever `tick_start` and `tp_error` say; in any other cycle those outputs are
unspecified (U2), and the model shows no value: the model's choice, notes/assumptions/6.md, as is the report field. -/
def Obligations.DecideCycleShowsTheOutputsAndWritesState : Prop :=
  (∀ (p : PortIn) (s : State) (r : List Byte) (c : Classification) (q : ProtoState), p.steady s.cfg →
    s.phase = .decide → s.response = .ok r → c = classify s.cfg s.state r → q = next s.state c →
    s.ports.tickDone = true ∧ s.ports.cls = some c.code ∧ s.ports.nextState = some q.code ∧
    s.ports.shortRead = some (decide (r.length < respLen s.cfg s.state)) ∧
    s.ports.mismatch = some (decide (c = .unrecognized)) ∧ s.ports.stateChanged = some (decide (q ≠ s.state)) ∧
    s.ports.sessionComplete = some (decide (s.state = .partNumber ∧ c = .ack)) ∧
    s.ports.protoReset = some (decide (3 ≤ s.state.code.toNat ∧ c = .nak)) ∧
    ∃ t, edge p s = .next t ∧ t.state = q ∧ t.phase = .idle ∧ t.fault = s.fault ∧ t.fphase = s.fphase ∧
      t.txidx = s.txidx ∧ t.ckacc = s.ckacc ∧ t.rxcnt = s.rxcnt ∧ t.rxbuf = s.rxbuf ∧ t.wireTx = s.wireTx ∧
      t.report = some (tickReport s.cfg s.state r)) ∧
  ∀ s : State, s.phase ≠ .decide →
    s.ports.tickDone = false ∧ s.ports.cls = none ∧ s.ports.nextState = none ∧ s.ports.shortRead = none ∧
    s.ports.mismatch = none ∧ s.ports.stateChanged = none ∧ s.ports.sessionComplete = none ∧ s.ports.protoReset = none

/-- R135: a transport fault in phase TX or RX beats everything but reset, and is ignored in the other phases. -/
def Obligations.TransportFaultEdge : Prop :=
  (∀ (p : PortIn) (s : State), p.steady s.cfg → p.tpError = true → s.phase = .tx ∨ s.phase = .rx →
    edge p s = .next
      { s with
        fault := true, fphase := if s.phase = .rx then .receive else .transmit, phase := .idle, report := none }) ∧
  ∀ (p : PortIn) (s : State), s.phase = .idle ∨ s.phase = .decide → edge p s = edge { p with tpError := false } s

/-- R136, R33, R172: a reset edge gives every register its reset value whatever the phase and the inputs; `RXBUF` keeps
its bytes; at most the byte offered at that edge joins the wire, if the transport takes it without a fault
(notes/assumptions/3.md); the block is then idle. -/
def Obligations.ResetEdgeWinsOverEverything : Prop :=
  ∀ (p : PortIn) (s : State), p.rst = true →
    ∃ w : List Byte,
      (w = [] ∨ (s.phase = .tx ∧ p.txReady = true ∧ p.tpError = false ∧ ∃ b, s.txByte = .ok b ∧ w = [b])) ∧
      edge p s = .next
        { State.reset with
          rxbuf := s.rxbuf, cfg := p.config, wireTx := s.wireTx ++ w, inbox := s.inbox } ∧
      ∀ t, edge p s = .next t →
        t.ports.busy = false ∧ t.ports.txValid = false ∧ t.ports.rxReq = false ∧ t.ports.fault = false ∧
        t.ports.state = 0 ∧ t.ports.tickDone = false

/-- U4, R30: an edge that changes the straps without a reset is refused by name.
notes/assumptions/10.md. -/
def Obligations.ChangingTheStrapsIsRefused : Prop :=
  ∀ (p : PortIn) (s : State), p.rst = false →
    ((∃ e, edge p s = .refused e) ↔ p.config ≠ s.cfg) ∧ (p.config ≠ s.cfg → edge p s = .refused .strapsChanged)

/-- R137: any run of edges that makes up one tick leaves exactly the state the tick function of R126 gives for the
answers read off that run: every register, the buffer, the wire and the report. -/
def Obligations.EdgesOfATickRefineTheTick : Prop :=
  ∀ (ps : List PortIn) (s t : State), IsTickRun ps s t →
    ∃ r, t.response = .ok r ∧ t = s.tick s.state (txOfRun s t) (rxOfRun r t)

/-- R137, the other way: whatever the transport answers, some run of edges makes up that tick. -/
def Obligations.EveryTickIsSomeRunOfEdges : Prop :=
  ∀ (s : State) (tx : TxAnswer) (rx : RxAnswer), s.canStart = true →
    ∃ ps, IsTickRun ps s (s.tick s.state tx rx)

/-- R184: a completed tick takes the start edge, at least `framelen(s)` edges in TX, at least one in RX and one in
DECIDE. -/
def Obligations.CompletedTickTakesAtLeastItsFrame : Prop :=
  ∀ (ps : List PortIn) (s t : State), IsTickRun ps s t → t.fault = false → framelen s.state + 3 ≤ ps.length

/-- R180: "The block has no timer": with no further input an open receive stays open for any number of steps, and
nothing moves.
A step without a listed input is a quiet edge: the model's choice, notes/assumptions/2.md. -/
def Obligations.AnOpenReceiveWaitsForEver : Prop :=
  ∀ (n : Nat) (s : State), s.phase = .rx → s.inbox = [] → s.rxcnt.toNat < respLen s.cfg s.state →
    runSteps (n + 1) s = .next { s with report := none }

/-! ## The whole machine -/

/-- R33: the values the spec gives for reset. -/
def Obligations.ResetValues : Prop :=
  State.reset.state = .haltStream ∧ State.reset.fault = false ∧ State.reset.fphase = .transmit ∧
  State.reset.phase = .idle ∧ State.reset.txidx = 0 ∧ State.reset.ckacc = 0 ∧ State.reset.rxcnt = 0 ∧
  State.reset.ports.busy = false ∧ State.reset.ports.fault = false

/-- The invariant of Safety.lean holds after reset. -/
def Obligations.InvariantHoldsAtReset : Prop := State.reset.Inv

/-- R27 to R29, R130, R131, R133, R121: every step keeps the invariant, from every state that has it. -/
def Obligations.EveryStepKeepsTheInvariant : Prop :=
  ∀ s t : State, s.Inv → step s = .next t → t.Inv

/-- R89 (3), R41: under the invariant no step reads an unspecified byte, and the one stop there is is the refusal of an
edge that changes the straps. -/
def Obligations.NoStepStopsUnderTheInvariant : Prop :=
  ∀ s : State, s.Inv →
    (∀ e, step s ≠ .fault e) ∧
    (∀ e, step s = .refused e →
      e = .strapsChanged ∧ ∃ p rest, s.inbox = .edge p :: rest ∧ p.rst = false ∧ p.config ≠ s.cfg)

/-- R131: "it can be 0 only if the hardware is broken": after a step, in phase RX or DECIDE, the self-check of the
outgoing frame is good. -/
def Obligations.ChecksumSelfCheckNeverFails : Prop :=
  ∀ s t : State, s.Inv → step s = .next t → t.phase = .rx ∨ t.phase = .decide →
    t.ports.txCksumOk = true ∧ t.txidx.toNat = oplen t.state

/-- R24, R121, R144: while `FAULT` = 1 no step but a reset does anything: only the input is used up. -/
def Obligations.AFaultedBlockDoesNothing : Prop :=
  ∀ s t : State, s.Inv → s.fault = true → step s = .next t → ¬ s.resetNext →
    t = { s with inbox := s.inbox.tail, report := none }

/-- R24, R139, R143: `FAULT` is set by a transport error in phase TX or RX and by nothing else; `FPHASE` says which, STATE
is as it was, and no tick is reported. -/
def Obligations.OnlyATransportErrorSetsFault : Prop :=
  ∀ s t : State, s.fault = false → step s = .next t → t.fault = true →
    t.state = s.state ∧ t.phase = .idle ∧ t.report = none ∧
    ((t.fphase = .transmit ∧
        ((∃ k rx rest, s.inbox = .tick (.error k) rx :: rest) ∨
         (∃ p rest, s.inbox = .edge p :: rest ∧ p.tpError = true ∧ s.phase = .tx))) ∨
     (t.fphase = .receive ∧
        ((∃ got rest, s.inbox = .tick .ok (.error got) :: rest) ∨
         (∃ p rest, s.inbox = .edge p :: rest ∧ p.tpError = true ∧ s.phase = .rx))))

/-- The step runs the instruction the block fetches: the command its frame decodes to when a tick may start, the
response the wire delivers when a receive is open; and a clock edge otherwise.
What is fetched when: the model's choice, notes/assumptions/1.md and 2.md. -/
def Obligations.StepRunsTheFetchedInstruction : Prop :=
  (∀ (s : State) (tx : TxAnswer) (rx : RxAnswer) (rest : List Input) (i : Instr), Requested s tx rx rest →
    decodeCommand (frame s.state) = .ok i → step s = exec i s) ∧
  (∀ (s : State) (r : List Byte) (rest : List Input) (i : Instr), s.inbox = .response r :: rest → s.phase = .rx →
    decodeResponse (r.take (respLen s.cfg s.state - s.rxcnt.toNat)) = .ok i → step s = exec i s) ∧
  (∀ (s : State) (p : PortIn) (rest : List Input), s.inbox = .edge p :: rest →
    step s = edge p { s with inbox := rest }) ∧
  (∀ s : State, s.inbox = [] → step s = edge (quietPorts s.cfg) s)

/-- Every word of the opcode table that decodes, placed in any state, is the instruction the very next step runs.
The placing: the model's choice, notes/assumptions/8.md. -/
def Obligations.APlacedWordIsTheNextInstruction : Prop :=
  ∀ (s : State) (nbits w : Nat) (i : Instr), decodeTableWord nbits w = some i →
    step (s.withFetchWord nbits w) = exec i (s.withFetchWord nbits w)

/-- R7, R110: `VENDOR_MODE` changes the VendorCode state and "Nothing else". -/
def Obligations.VendorModeMattersOnlyAtVendorCode : Prop :=
  ∀ (s : State) (tx : TxAnswer) (rx : RxAnswer) (rest : List Input) (m : VendorMode), Requested s tx rx rest →
    s.state ≠ .vendorCode →
    ∃ t, step s = .next t ∧
      step { s with cfg := { s.cfg with vendorMode := m } } = .next { t with cfg := { t.cfg with vendorMode := m } }

/-- R34, R22: what a tick does depends on STATE, FAULT, the straps and the answers alone: two states that agree on those
end with the same STATE, FAULT, count and report and send the same bytes, whatever their working registers held. -/
def Obligations.WorkingRegistersDoNotReachTheNextTick : Prop :=
  ∀ (s₁ s₂ : State) (tx : TxAnswer) (rx : RxAnswer) (rest₁ rest₂ : List Input),
    Requested s₁ tx rx rest₁ → Requested s₂ tx rx rest₂ → s₁.state = s₂.state → s₁.cfg = s₂.cfg →
    ∃ t₁ t₂ w, step s₁ = .next t₁ ∧ step s₂ = .next t₂ ∧ t₁.state = t₂.state ∧ t₁.fault = t₂.fault ∧
      (t₁.fault = true → t₁.fphase = t₂.fphase) ∧ t₁.rxcnt = t₂.rxcnt ∧ t₁.response = t₂.response ∧
      t₁.report = t₂.report ∧ t₁.wireTx = s₁.wireTx ++ w ∧ t₂.wireTx = s₂.wireTx ++ w

/-- R118, R115: PartNumber acknowledged any number of times stays at PartNumber, sends its query every time and reports
completion every time. -/
def Obligations.PartNumberKeepsPolling : Prop :=
  ∀ (rs : List (List Byte)) (s : State) (rest : List Input), s.state = .partNumber → s.phase = .idle →
    s.fault = false → s.inbox = rs.map (fun r => .tick .ok (.ok r)) ++ rest →
    (∀ r ∈ rs, 12 ≤ r.length ∧ r.take 3 = [0x06, 0x0A, 0x14]) →
    ∃ t, runSteps rs.length s = .next t ∧ t.state = .partNumber ∧ t.phase = .idle ∧ t.fault = false ∧
      t.inbox = rest ∧ t.wireTx = s.wireTx ++ (List.replicate rs.length (frame .partNumber)).flatten ∧
      (rs ≠ [] → ∃ rep, t.report = some rep ∧ rep.sessionComplete = true ∧ rep.stateChanged = false)

/-- R179: "No retry has a limit": GetInterval and VendorCode stay where they are for as long as no answer acknowledges,
and send their frame every time. -/
def Obligations.RetriesAreUnbounded : Prop :=
  ∀ (rs : List (List Byte)) (s : State) (rest : List Input), s.state = .getInterval ∨ s.state = .vendorCode →
    s.phase = .idle → s.fault = false → s.inbox = rs.map (fun r => .tick .ok (.ok r)) ++ rest →
    (∀ r ∈ rs, classify s.cfg s.state (r.take (respLen s.cfg s.state)) ≠ .ack) →
    ∃ t, runSteps rs.length s = .next t ∧ t.state = s.state ∧ t.phase = .idle ∧ t.fault = false ∧ t.inbox = rest ∧
      t.wireTx = s.wireTx ++ (List.replicate rs.length (frame s.state)).flatten

/-- R2, R23, R117: under `CANONICAL12`, and under a premise about the answers (R179), the pipeline is walked to its end
one state a tick: from the state numbered `k`, `7 - k` acknowledged ticks reach PartNumber. -/
def Obligations.AcknowledgedSessionReachesPartNumber : Prop :=
  ∀ (rs : List (List Byte)) (s : State) (rest : List Input), s.cfg.vendorMode = .canonical12 → s.phase = .idle →
    s.fault = false → s.inbox = rs.map (fun r => .tick .ok (.ok r)) ++ rest →
    (∀ r ∈ rs, 12 ≤ r.length ∧ r.take 3 = [0x06, 0x0A, 0x14]) → rs.length = 7 - s.state.code.toNat →
    ∃ t, runSteps rs.length s = .next t ∧ t.state = .partNumber ∧ t.phase = .idle ∧ t.fault = false ∧ t.inbox = rest

/-- R29, R40, U1: a read of `RXBUF` answers a byte only below `RXCNT`; elsewhere it stops by name, and `rx_buf` shows no
value there.
The fault is the model's choice among the two treatments of U1, notes/assumptions/4.md. -/
def Obligations.UnspecifiedBytesAreNeverRead : Prop :=
  ∀ (s : State) (i : Nat),
    (rxbufDepth ≤ i → s.readRxBuf i = .error (.rxbufNoSuchOffset i)) ∧
    (i < rxbufDepth → s.rxcnt.toNat ≤ i →
      s.readRxBuf i = .error (.rxbufUnspecified i) ∧ s.ports.rxBuf[i]? = some none) ∧
    (s.Inv → i < s.rxcnt.toNat → ∃ b, s.readRxBuf i = .ok b ∧ s.rxbuf.read i = some b ∧
      s.ports.rxBuf[i]? = some (some b))

/-- R180, R138: "A tick ends only if the transport eventually accepts every frame byte (`tx_ready`) and eventually ends
the receive". Under that premise about the transport, which is none about the block, every tick that starts ends: some
first part of the endless sequence of edges is a run that makes it up. -/
def Obligations.AFairTransportEndsEveryTick : Prop :=
  ∀ (w : Nat → PortIn) (s : State), s.canStart = true → (w 0).tickStart = true → (∀ n, (w n).steady s.cfg) →
    FairTransport w s → ∃ n t, IsTickRun (firstEdges w n) s t
end

