-- ==== Sys2Proof/Laws/Codec.lean ====
section
/-! SUPPORT. The lengths of the table's frames and what the decoder and the encoder make of them. -/

namespace Sys2Proof

theorem rom_length (p : ProtoState) : (rom p).length = oplen p := by cases p <;> rfl

theorem frame_length (p : ProtoState) : (frame p).length = framelen p := by
  simp [frame, buildFrame, rom_length, framelen]

theorem oplen_le (p : ProtoState) : oplen p ≤ 11 := by cases p <;> decide

theorem decodeCommand_frame (p : ProtoState) : decodeCommand (frame p) = .ok (Instr.ofState p) := by
  cases p <;> decide

theorem encode_ofState (p : ProtoState) : encode (Instr.ofState p) = frame p := by cases p <;> rfl

theorem command_ofState (p : ProtoState) : (Instr.ofState p).command? = some p := by cases p <;> rfl

theorem ofState_of_command {i : Instr} {p : ProtoState} (h : i.command? = some p) : i = Instr.ofState p := by
  cases i <;> simp [Instr.command?] at h <;> subst h <;> rfl

/-- A response that decodes, decodes to no command, and its encoding is the response itself. -/
theorem encode_of_decodeResponse {r : List Byte} {i : Instr} (h : decodeResponse r = .ok i) :
    i.command? = none ∧ encode i = r := by
  have split_header (q : Pattern) (hq : beginsWith q.header r = true) : q.header ++ r.drop q.header.length = r := by
    have : r.take q.header.length = q.header := by simpa [beginsWith] using hq
    conv_rhs => rw [← List.take_append_drop q.header.length r, this]
  unfold decodeResponse at h
  split at h
  · simp at h
  split at h
  · rename_i hq
    cases h
    exact ⟨rfl, split_header .vack4 hq⟩
  split at h
  · rename_i hq
    cases h
    exact ⟨rfl, split_header .ack3 hq⟩
  split at h
  · rename_i hq
    cases h
    exact ⟨rfl, split_header .nak3 hq⟩
  split at h
  · rename_i hq
    cases h
    exact ⟨rfl, split_header .ack1 hq⟩
  · cases r with
    | nil => simp at h
    | cons b bs =>
      cases h
      exact ⟨rfl, rfl⟩

/-- Every non-empty response that fits the buffer decodes. -/
theorem decodeResponse_total {r : List Byte} (hne : r ≠ []) (hlen : r.length ≤ rxbufDepth) :
    ∃ i, decodeResponse r = .ok i := by
  unfold decodeResponse
  rw [if_neg (by omega)]
  repeat' split
  all_goals first | exact ⟨_, rfl⟩ | contradiction

end Sys2Proof
end

