-- ==== Sys2Proof/Laws/State.lean ====
section
/-! SUPPORT. What each named update of the state does to each field. -/

namespace Sys2Proof.Machine

@[simp] theorem State.consume_state (s : State) : s.consume.state = s.state := rfl
@[simp] theorem State.consume_fault (s : State) : s.consume.fault = s.fault := rfl
@[simp] theorem State.consume_fphase (s : State) : s.consume.fphase = s.fphase := rfl
@[simp] theorem State.consume_phase (s : State) : s.consume.phase = s.phase := rfl
@[simp] theorem State.consume_txidx (s : State) : s.consume.txidx = s.txidx := rfl
@[simp] theorem State.consume_ckacc (s : State) : s.consume.ckacc = s.ckacc := rfl
@[simp] theorem State.consume_rxcnt (s : State) : s.consume.rxcnt = s.rxcnt := rfl
@[simp] theorem State.consume_rxbuf (s : State) : s.consume.rxbuf = s.rxbuf := rfl
@[simp] theorem State.consume_cfg (s : State) : s.consume.cfg = s.cfg := rfl
@[simp] theorem State.consume_wireTx (s : State) : s.consume.wireTx = s.wireTx := rfl
@[simp] theorem State.consume_inbox (s : State) : s.consume.inbox = s.inbox.tail := rfl
@[simp] theorem State.consume_report (s : State) : s.consume.report = s.report := rfl

@[simp] theorem State.hold_state (s : State) : s.hold.state = s.state := rfl
@[simp] theorem State.hold_fault (s : State) : s.hold.fault = s.fault := rfl
@[simp] theorem State.hold_fphase (s : State) : s.hold.fphase = s.fphase := rfl
@[simp] theorem State.hold_phase (s : State) : s.hold.phase = s.phase := rfl
@[simp] theorem State.hold_txidx (s : State) : s.hold.txidx = s.txidx := rfl
@[simp] theorem State.hold_ckacc (s : State) : s.hold.ckacc = s.ckacc := rfl
@[simp] theorem State.hold_rxcnt (s : State) : s.hold.rxcnt = s.rxcnt := rfl
@[simp] theorem State.hold_rxbuf (s : State) : s.hold.rxbuf = s.rxbuf := rfl
@[simp] theorem State.hold_cfg (s : State) : s.hold.cfg = s.cfg := rfl
@[simp] theorem State.hold_wireTx (s : State) : s.hold.wireTx = s.wireTx := rfl
@[simp] theorem State.hold_inbox (s : State) : s.hold.inbox = s.inbox := rfl
@[simp] theorem State.hold_report (s : State) : s.hold.report = none := rfl

@[simp] theorem State.beginTick_state (s : State) : s.beginTick.state = s.state := rfl
@[simp] theorem State.beginTick_fault (s : State) : s.beginTick.fault = s.fault := rfl
@[simp] theorem State.beginTick_fphase (s : State) : s.beginTick.fphase = s.fphase := rfl
@[simp] theorem State.beginTick_phase (s : State) : s.beginTick.phase = .tx := rfl
@[simp] theorem State.beginTick_txidx (s : State) : s.beginTick.txidx = 0 := rfl
@[simp] theorem State.beginTick_ckacc (s : State) : s.beginTick.ckacc = 0 := rfl
@[simp] theorem State.beginTick_rxcnt (s : State) : s.beginTick.rxcnt = 0 := rfl
@[simp] theorem State.beginTick_rxbuf (s : State) : s.beginTick.rxbuf = s.rxbuf := rfl
@[simp] theorem State.beginTick_cfg (s : State) : s.beginTick.cfg = s.cfg := rfl
@[simp] theorem State.beginTick_wireTx (s : State) : s.beginTick.wireTx = s.wireTx := rfl
@[simp] theorem State.beginTick_inbox (s : State) : s.beginTick.inbox = s.inbox := rfl
@[simp] theorem State.beginTick_report (s : State) : s.beginTick.report = none := rfl

@[simp] theorem State.transmit_state (p : ProtoState) (k : Nat) (s : State) : (s.transmit p k).state = s.state := rfl
@[simp] theorem State.transmit_fault (p : ProtoState) (k : Nat) (s : State) : (s.transmit p k).fault = s.fault := rfl
@[simp] theorem State.transmit_fphase (p : ProtoState) (k : Nat) (s : State) : (s.transmit p k).fphase = s.fphase := rfl
@[simp] theorem State.transmit_phase (p : ProtoState) (k : Nat) (s : State) : (s.transmit p k).phase = s.phase := rfl
@[simp] theorem State.transmit_txidx (p : ProtoState) (k : Nat) (s : State) : (s.transmit p k).txidx = BitVec.ofNat 4 (min k (oplen p)) := rfl
@[simp] theorem State.transmit_ckacc (p : ProtoState) (k : Nat) (s : State) : (s.transmit p k).ckacc = s.ckacc + sum8 ((frame p).take k) := rfl
@[simp] theorem State.transmit_rxcnt (p : ProtoState) (k : Nat) (s : State) : (s.transmit p k).rxcnt = s.rxcnt := rfl
@[simp] theorem State.transmit_rxbuf (p : ProtoState) (k : Nat) (s : State) : (s.transmit p k).rxbuf = s.rxbuf := rfl
@[simp] theorem State.transmit_cfg (p : ProtoState) (k : Nat) (s : State) : (s.transmit p k).cfg = s.cfg := rfl
@[simp] theorem State.transmit_wireTx (p : ProtoState) (k : Nat) (s : State) : (s.transmit p k).wireTx = s.wireTx ++ (frame p).take k := rfl
@[simp] theorem State.transmit_inbox (p : ProtoState) (k : Nat) (s : State) : (s.transmit p k).inbox = s.inbox := rfl
@[simp] theorem State.transmit_report (p : ProtoState) (k : Nat) (s : State) : (s.transmit p k).report = s.report := rfl

@[simp] theorem State.openReceive_state (s : State) : s.openReceive.state = s.state := rfl
@[simp] theorem State.openReceive_fault (s : State) : s.openReceive.fault = s.fault := rfl
@[simp] theorem State.openReceive_fphase (s : State) : s.openReceive.fphase = s.fphase := rfl
@[simp] theorem State.openReceive_phase (s : State) : s.openReceive.phase = .rx := rfl
@[simp] theorem State.openReceive_txidx (s : State) : s.openReceive.txidx = s.txidx := rfl
@[simp] theorem State.openReceive_ckacc (s : State) : s.openReceive.ckacc = s.ckacc := rfl
@[simp] theorem State.openReceive_rxcnt (s : State) : s.openReceive.rxcnt = s.rxcnt := rfl
@[simp] theorem State.openReceive_rxbuf (s : State) : s.openReceive.rxbuf = s.rxbuf := rfl
@[simp] theorem State.openReceive_cfg (s : State) : s.openReceive.cfg = s.cfg := rfl
@[simp] theorem State.openReceive_wireTx (s : State) : s.openReceive.wireTx = s.wireTx := rfl
@[simp] theorem State.openReceive_inbox (s : State) : s.openReceive.inbox = s.inbox := rfl
@[simp] theorem State.openReceive_report (s : State) : s.openReceive.report = s.report := rfl

@[simp] theorem State.accept_state (bs : List Byte) (s : State) : (s.accept bs).state = s.state := rfl
@[simp] theorem State.accept_fault (bs : List Byte) (s : State) : (s.accept bs).fault = s.fault := rfl
@[simp] theorem State.accept_fphase (bs : List Byte) (s : State) : (s.accept bs).fphase = s.fphase := rfl
@[simp] theorem State.accept_phase (bs : List Byte) (s : State) : (s.accept bs).phase = s.phase := rfl
@[simp] theorem State.accept_txidx (bs : List Byte) (s : State) : (s.accept bs).txidx = s.txidx := rfl
@[simp] theorem State.accept_ckacc (bs : List Byte) (s : State) : (s.accept bs).ckacc = s.ckacc := rfl
@[simp] theorem State.accept_rxcnt (bs : List Byte) (s : State) : (s.accept bs).rxcnt = s.rxcnt + BitVec.ofNat 5 bs.length := rfl
@[simp] theorem State.accept_rxbuf (bs : List Byte) (s : State) : (s.accept bs).rxbuf = s.rxbuf.writeBytes s.rxcnt.toNat bs := rfl
@[simp] theorem State.accept_cfg (bs : List Byte) (s : State) : (s.accept bs).cfg = s.cfg := rfl
@[simp] theorem State.accept_wireTx (bs : List Byte) (s : State) : (s.accept bs).wireTx = s.wireTx := rfl
@[simp] theorem State.accept_inbox (bs : List Byte) (s : State) : (s.accept bs).inbox = s.inbox := rfl
@[simp] theorem State.accept_report (bs : List Byte) (s : State) : (s.accept bs).report = s.report := rfl

@[simp] theorem State.takeTransportError_state (ph : FaultPhase) (s : State) : (s.takeTransportError ph).state = s.state := rfl
@[simp] theorem State.takeTransportError_fault (ph : FaultPhase) (s : State) : (s.takeTransportError ph).fault = true := rfl
@[simp] theorem State.takeTransportError_fphase (ph : FaultPhase) (s : State) : (s.takeTransportError ph).fphase = ph := rfl
@[simp] theorem State.takeTransportError_phase (ph : FaultPhase) (s : State) : (s.takeTransportError ph).phase = .idle := rfl
@[simp] theorem State.takeTransportError_txidx (ph : FaultPhase) (s : State) : (s.takeTransportError ph).txidx = s.txidx := rfl
@[simp] theorem State.takeTransportError_ckacc (ph : FaultPhase) (s : State) : (s.takeTransportError ph).ckacc = s.ckacc := rfl
@[simp] theorem State.takeTransportError_rxcnt (ph : FaultPhase) (s : State) : (s.takeTransportError ph).rxcnt = s.rxcnt := rfl
@[simp] theorem State.takeTransportError_rxbuf (ph : FaultPhase) (s : State) : (s.takeTransportError ph).rxbuf = s.rxbuf := rfl
@[simp] theorem State.takeTransportError_cfg (ph : FaultPhase) (s : State) : (s.takeTransportError ph).cfg = s.cfg := rfl
@[simp] theorem State.takeTransportError_wireTx (ph : FaultPhase) (s : State) : (s.takeTransportError ph).wireTx = s.wireTx := rfl
@[simp] theorem State.takeTransportError_inbox (ph : FaultPhase) (s : State) : (s.takeTransportError ph).inbox = s.inbox := rfl
@[simp] theorem State.takeTransportError_report (ph : FaultPhase) (s : State) : (s.takeTransportError ph).report = none := rfl

@[simp] theorem State.hardReset_state (c : Config) (s : State) : (s.hardReset c).state = .haltStream := rfl
@[simp] theorem State.hardReset_fault (c : Config) (s : State) : (s.hardReset c).fault = false := rfl
@[simp] theorem State.hardReset_fphase (c : Config) (s : State) : (s.hardReset c).fphase = .transmit := rfl
@[simp] theorem State.hardReset_phase (c : Config) (s : State) : (s.hardReset c).phase = .idle := rfl
@[simp] theorem State.hardReset_txidx (c : Config) (s : State) : (s.hardReset c).txidx = 0 := rfl
@[simp] theorem State.hardReset_ckacc (c : Config) (s : State) : (s.hardReset c).ckacc = 0 := rfl
@[simp] theorem State.hardReset_rxcnt (c : Config) (s : State) : (s.hardReset c).rxcnt = 0 := rfl
@[simp] theorem State.hardReset_rxbuf (c : Config) (s : State) : (s.hardReset c).rxbuf = s.rxbuf := rfl
@[simp] theorem State.hardReset_cfg (c : Config) (s : State) : (s.hardReset c).cfg = c := rfl
@[simp] theorem State.hardReset_wireTx (c : Config) (s : State) : (s.hardReset c).wireTx = s.wireTx := rfl
@[simp] theorem State.hardReset_inbox (c : Config) (s : State) : (s.hardReset c).inbox = s.inbox := rfl
@[simp] theorem State.hardReset_report (c : Config) (s : State) : (s.hardReset c).report = none := rfl

@[simp] theorem State.decideTick_state (p : ProtoState) (r : List Byte) (s : State) : (s.decideTick p r).state = Machine.next p (classify s.cfg p r) := rfl
@[simp] theorem State.decideTick_fault (p : ProtoState) (r : List Byte) (s : State) : (s.decideTick p r).fault = s.fault := rfl
@[simp] theorem State.decideTick_fphase (p : ProtoState) (r : List Byte) (s : State) : (s.decideTick p r).fphase = s.fphase := rfl
@[simp] theorem State.decideTick_phase (p : ProtoState) (r : List Byte) (s : State) : (s.decideTick p r).phase = .idle := rfl
@[simp] theorem State.decideTick_txidx (p : ProtoState) (r : List Byte) (s : State) : (s.decideTick p r).txidx = s.txidx := rfl
@[simp] theorem State.decideTick_ckacc (p : ProtoState) (r : List Byte) (s : State) : (s.decideTick p r).ckacc = s.ckacc := rfl
@[simp] theorem State.decideTick_rxcnt (p : ProtoState) (r : List Byte) (s : State) : (s.decideTick p r).rxcnt = s.rxcnt := rfl
@[simp] theorem State.decideTick_rxbuf (p : ProtoState) (r : List Byte) (s : State) : (s.decideTick p r).rxbuf = s.rxbuf := rfl
@[simp] theorem State.decideTick_cfg (p : ProtoState) (r : List Byte) (s : State) : (s.decideTick p r).cfg = s.cfg := rfl
@[simp] theorem State.decideTick_wireTx (p : ProtoState) (r : List Byte) (s : State) : (s.decideTick p r).wireTx = s.wireTx := rfl
@[simp] theorem State.decideTick_inbox (p : ProtoState) (r : List Byte) (s : State) : (s.decideTick p r).inbox = s.inbox := rfl
@[simp] theorem State.decideTick_report (p : ProtoState) (r : List Byte) (s : State) : (s.decideTick p r).report = some (tickReport s.cfg p r) := rfl

end Sys2Proof.Machine
end

