-- ==== Sys2Proof/Laws/Ops.lean ====
section
/-! SUPPORT. What each shared operation can do, said once. -/

namespace Sys2Proof.Machine

theorem respLen_le (cfg : Config) (p : ProtoState) : respLen cfg p ≤ rxbufDepth := by
  cases p <;> simp only [respLen, rxbufDepth] <;> (try split) <;> omega

theorem four_le_respLen (cfg : Config) (p : ProtoState) : 4 ≤ respLen cfg p := by
  cases p <;> simp only [respLen] <;> (try split) <;> omega

/-- The query states are those numbered 3 and above (R126: "s >= SerialNumber"). -/
theorem isQuery_iff (p : ProtoState) : isQuery p = true ↔ 3 ≤ p.code.toNat := by cases p <;> decide

/-- A read answers a byte exactly where the buffer holds one below `RXCNT`. -/
theorem State.readRxBuf_eq_ok {s : State} {i : Nat} {b : Byte} :
    s.readRxBuf i = .ok b ↔ i < rxbufDepth ∧ i < s.rxcnt.toNat ∧ s.rxbuf.read i = some b := by
  unfold State.readRxBuf
  split
  · simp; omega
  · split
    · simp; omega
    · split <;> simp_all

/-- Consecutive reads answer the bytes the buffer holds there. -/
theorem State.readRxBytes_eq_ok {s : State} {a n : Nat} {bs : List Byte} :
    s.readRxBytes a n = .ok bs ↔ bs.length = n ∧ ∀ i < n, s.readRxBuf (a + i) = .ok (bs.getD i 0) := by
  induction n generalizing a bs with
  | zero =>
    rw [State.readRxBytes, Except.ok.injEq, eq_comm, ← List.length_eq_zero_iff]
    simp
  | succ n ih =>
    rw [State.readRxBytes]
    constructor
    · intro h
      split at h
      · simp at h
      rename_i b hb
      split at h
      · simp at h
      rename_i bs' hbs
      cases h
      obtain ⟨hl, hr⟩ := ih.1 hbs
      refine ⟨by simp [hl], fun i hi => ?_⟩
      cases i with
      | zero => simpa using hb
      | succ i => simpa [show a + (i + 1) = a + 1 + i by omega] using hr i (by omega)
    · rintro ⟨hl, hr⟩
      match bs, hl with
      | b :: bs, hl =>
        have h0 := hr 0 (by omega)
        have hrest : s.readRxBytes (a + 1) n = .ok bs := ih.2
          ⟨by simpa using hl, fun i hi => by
            simpa [show a + (i + 1) = a + 1 + i by omega] using hr (i + 1) (by omega)⟩
        simp only [Nat.add_zero, List.getD_cons_zero] at h0
        rw [h0, hrest]

/-- R134: the response is `RXBUF[0:RXCNT]`. -/
theorem State.response_eq_ok {s : State} {r : List Byte} :
    s.response = .ok r ↔
      r.length = s.rxcnt.toNat ∧ s.rxcnt.toNat ≤ rxbufDepth ∧ ∀ i < s.rxcnt.toNat, s.rxbuf.read i = r[i]? := by
  rw [State.response, State.readRxBytes_eq_ok]
  constructor
  · rintro ⟨hl, h⟩
    refine ⟨hl, ?_, fun i hi => ?_⟩
    · rcases Nat.eq_zero_or_pos s.rxcnt.toNat with h0 | h0
      · omega
      · have := (State.readRxBuf_eq_ok.1 (h (s.rxcnt.toNat - 1) (by omega))).1
        omega
    · have := (State.readRxBuf_eq_ok.1 (h i hi)).2.2
      rw [Nat.zero_add] at this
      rw [this, List.getElem?_eq_getElem (by omega), List.getD_eq_getElem?_getD,
        List.getElem?_eq_getElem (by omega), Option.getD_some]
  · rintro ⟨hl, hd, h⟩
    refine ⟨hl, fun i hi => State.readRxBuf_eq_ok.2 ⟨by omega, by omega, ?_⟩⟩
    rw [Nat.zero_add, h i hi, List.getD_eq_getElem?_getD, List.getElem?_eq_getElem (by omega), Option.getD_some]

/-- A filled buffer has a response. -/
theorem State.response_of_filled {s : State} (hd : s.rxcnt.toNat ≤ rxbufDepth)
    (h : ∀ i < s.rxcnt.toNat, (s.rxbuf.read i).isSome = true) :
    ∃ r, s.response = .ok r ∧ r.length = s.rxcnt.toNat := by
  refine ⟨(List.range s.rxcnt.toNat).map (fun i => (s.rxbuf.read i).getD 0), ?_, by simp⟩
  refine State.response_eq_ok.2 ⟨by simp, hd, fun i hi => ?_⟩
  obtain ⟨b, hb⟩ := Option.isSome_iff_exists.1 (h i hi)
  simp [hi, hb]

/-- Accepted bytes that fit extend the response. -/
theorem State.response_accept {s : State} {r bs : List Byte} (hr : s.response = .ok r)
    (hfit : s.rxcnt.toNat + bs.length ≤ rxbufDepth) :
    (s.accept bs).response = .ok (r ++ bs) ∧ (s.accept bs).rxcnt.toNat = s.rxcnt.toNat + bs.length := by
  obtain ⟨hl, _, hread⟩ := State.response_eq_ok.1 hr
  have hd : rxbufDepth = 23 := rfl
  have hcnt : (s.accept bs).rxcnt.toNat = s.rxcnt.toNat + bs.length := by
    simp only [State.accept_rxcnt, BitVec.toNat_add, BitVec.toNat_ofNat]
    omega
  refine ⟨State.response_eq_ok.2 ⟨by rw [hcnt, List.length_append, hl], by omega, fun i hi => ?_⟩, hcnt⟩
  simp only [State.accept_rxbuf]
  rcases Nat.lt_or_ge i s.rxcnt.toNat with h | h
  · rw [Memory.read_writeBytes_outside _ _ _ (.inl h), hread i h, List.getElem?_append_left (by omega)]
  · obtain ⟨j, rfl⟩ := Nat.exists_eq_add_of_le h
    rw [Memory.read_writeBytes_inside _ _ _ (by omega), List.getElem?_append_right (by omega), hl,
      Nat.add_sub_cancel_left]

/-- The same where nothing has arrived yet. -/
theorem State.response_accept_fresh {s : State} {bs : List Byte} (h0 : s.rxcnt = 0) (hfit : bs.length ≤ rxbufDepth) :
    (s.accept bs).response = .ok bs ∧ (s.accept bs).rxcnt.toNat = bs.length := by
  have hempty : s.response = .ok [] := State.response_eq_ok.2 (by simp [h0])
  simpa [h0] using State.response_accept hempty (bs := bs) (by simpa [h0] using hfit)

/-- What a command can do: run the tick, or ignore the request, or find none. -/
theorem runCommand_cases {p : ProtoState} {s : State} {o : Host.Outcome State Fault Refusal}
    (h : runCommand p s = o) :
    (∃ tx rx rest, s.inbox = .tick tx rx :: rest ∧ s.canStart = true ∧ o = .next (s.consume.tick p tx rx)) ∨
    (∃ tx rx rest, s.inbox = .tick tx rx :: rest ∧ s.canStart = false ∧ o = .next s.consume.hold) ∨
    ((∀ tx rx rest, s.inbox ≠ .tick tx rx :: rest) ∧ o = .next s.hold) := by
  subst h
  unfold runCommand
  split
  · rename_i tx rx rest heq
    by_cases hc : s.canStart = true
    · exact .inl ⟨tx, rx, rest, heq, hc, if_pos hc⟩
    · exact .inr (.inl ⟨tx, rx, rest, heq, by simpa using hc, if_neg hc⟩)
  all_goals
    rename_i heq
    exact .inr (.inr ⟨fun _ _ _ h => by simp [heq] at h, rfl⟩)

/-- A command answers a next state in every state. -/
theorem runCommand_next (p : ProtoState) (s : State) : ∃ t, runCommand p s = .next t := by
  rcases runCommand_cases (rfl : runCommand p s = _) with ⟨_, _, _, _, _, h⟩ | ⟨_, _, _, _, _, h⟩ | ⟨_, h⟩ <;>
    exact ⟨_, h⟩

/-- What a response can do: be taken and decided, or not be taken, or stop where the buffer is not filled. -/
theorem respond_cases {bs : List Byte} {s : State} {o : Host.Outcome State Fault Refusal} (h : respond bs s = o) :
    (s.phase = .rx ∧ ∃ r, (s.consume.accept (bs.take s.room)).response = .ok r ∧
      o = .next ((s.consume.accept (bs.take s.room)).decideTick s.state r)) ∨
    (s.phase = .rx ∧ ∃ e, (s.consume.accept (bs.take s.room)).response = .error e ∧ o = .fault e) ∨
    (s.phase ≠ .rx ∧ o = .next s.consume.hold) := by
  subst h
  unfold respond
  by_cases hp : s.phase = .rx
  · rw [if_pos hp]
    cases hr : (s.consume.accept (bs.take s.room)).response with
    | ok r => exact .inl ⟨hp, r, rfl, rfl⟩
    | error e => exact .inr (.inl ⟨hp, e, rfl, rfl⟩)
  · exact .inr (.inr ⟨hp, if_neg hp⟩)

/-- An instruction is the command of a state or a response. -/
theorem exec_cases (i : Instr) (s : State) :
    (∃ p, i = Instr.ofState p ∧ exec i s = runCommand p s) ∨ (i.command? = none ∧ exec i s = respond (encode i) s) := by
  cases i
  case haltStream => exact .inl ⟨.haltStream, rfl, rfl⟩
  case getInterval => exact .inl ⟨.getInterval, rfl, rfl⟩
  case vendorCode => exact .inl ⟨.vendorCode, rfl, rfl⟩
  case serialNumber => exact .inl ⟨.serialNumber, rfl, rfl⟩
  case hardwareRevision => exact .inl ⟨.hardwareRevision, rfl, rfl⟩
  case softwareRevision => exact .inl ⟨.softwareRevision, rfl, rfl⟩
  case productName => exact .inl ⟨.productName, rfl, rfl⟩
  case partNumber => exact .inl ⟨.partNumber, rfl, rfl⟩
  all_goals exact .inr ⟨rfl, rfl⟩

theorem exec_ofState (p : ProtoState) (s : State) : exec (Instr.ofState p) s = runCommand p s := by cases p <;> rfl

theorem exec_response {i : Instr} (h : i.command? = none) (s : State) : exec i s = respond (encode i) s := by
  cases i <;> first | rfl | simp [Instr.command?] at h

/-- What one rising edge can do, in a state it gives a next one. -/
theorem edge_cases {p : PortIn} {s t : State} (h : edge p s = .next t) :
    (p.rst = true ∧ t = (s.takenAtReset p).hardReset p.config) ∨
    (p.rst = false ∧ p.config = s.cfg ∧
      ((s.phase = .idle ∧ edgeIdle p s = .next t) ∨ (s.phase = .tx ∧ edgeTx p s = .next t) ∨
       (s.phase = .rx ∧ edgeRx p s = .next t) ∨ (s.phase = .decide ∧ edgeDecide s = .next t))) := by
  unfold edge at h
  split at h
  · rename_i hr
    cases h
    exact .inl ⟨hr, rfl⟩
  · rename_i hr
    split at h
    · simp at h
    · rename_i hc
      refine .inr ⟨by simpa using hr, by simpa using hc, ?_⟩
      split at h
      · exact .inl ⟨‹_›, h⟩
      · exact .inr (.inl ⟨‹_›, h⟩)
      · exact .inr (.inr (.inl ⟨‹_›, h⟩))
      · exact .inr (.inr (.inr ⟨‹_›, h⟩))

theorem edgeIdle_cases {p : PortIn} {s t : State} (h : edgeIdle p s = .next t) :
    (p.tickStart = true ∧ s.fault = false ∧ t = s.beginTick) ∨ t = s.hold := by
  unfold edgeIdle at h
  split at h
  · rename_i hc
    cases h
    exact .inl ⟨by simp_all, by simp_all, rfl⟩
  · cases h
    exact .inr rfl

theorem edgeTx_cases {p : PortIn} {s t : State} (h : edgeTx p s = .next t) :
    (p.tpError = true ∧ t = s.takeTransportError .transmit) ∨
    (p.tpError = false ∧ p.txReady = true ∧ ∃ b, s.txByte = .ok b ∧ t = s.transferByte b) ∨
    (p.tpError = false ∧ p.txReady = false ∧ t = s.hold) := by
  unfold edgeTx at h
  split at h
  · cases h
    exact .inl ⟨‹_›, rfl⟩
  · rename_i he
    split at h
    · rename_i hr
      split at h
      · simp at h
      · rename_i b hb
        cases h
        exact .inr (.inl ⟨by simpa using he, hr, b, hb, rfl⟩)
    · rename_i hr
      cases h
      exact .inr (.inr ⟨by simpa using he, by simpa using hr, rfl⟩)

theorem edgeRx_cases {p : PortIn} {s t : State} (h : edgeRx p s = .next t) :
    (p.tpError = true ∧ t = s.takeTransportError .receive) ∨
    (p.tpError = false ∧ t = (s.acceptOffered p).endReceive p.rxDone) := by
  unfold edgeRx at h
  split at h
  · cases h
    exact .inl ⟨‹_›, rfl⟩
  · rename_i he
    cases h
    exact .inr ⟨by simpa using he, rfl⟩

theorem edgeDecide_cases {s t : State} (h : edgeDecide s = .next t) :
    ∃ r, s.response = .ok r ∧ t = s.decideTick s.state r := by
  unfold edgeDecide at h
  split at h
  · simp at h
  · rename_i r hr
    cases h
    exact ⟨r, hr, rfl⟩

/-- The two ways the byte at `TXIDX` moves the sequencer. -/
theorem State.transferByte_cases (b : Byte) (s : State) :
    (s.txidx.toNat = oplen s.state ∧ s.transferByte b =
      { s with phase := .rx, ckacc := s.ckacc + b, wireTx := s.wireTx ++ [b], report := none }) ∨
    (s.txidx.toNat ≠ oplen s.state ∧ s.transferByte b =
      { s with txidx := s.txidx + 1, ckacc := s.ckacc + b, wireTx := s.wireTx ++ [b], report := none }) := by
  unfold State.transferByte
  by_cases h : s.txidx.toNat = oplen s.state
  · exact .inl ⟨h, if_pos h⟩
  · exact .inr ⟨h, if_neg h⟩

/-- A reset edge resets the registers whatever the transport takes at it; only the wire can differ. -/
theorem State.takenAtReset_cases (p : PortIn) (s : State) :
    s.takenAtReset p = s ∨ ∃ b, s.takenAtReset p = { s with wireTx := s.wireTx ++ [b] } := by
  unfold State.takenAtReset
  split
  · split
    · exact .inl rfl
    · exact .inr ⟨_, rfl⟩
  · exact .inl rfl

/-- R121: a tick starts in phase IDLE without a fault. -/
theorem State.canStart_iff {s : State} : s.canStart = true ↔ s.phase = .idle ∧ s.fault = false := by
  simp [State.canStart]

/-- What the next step fetches, when it fetches an instruction. -/
theorem fetch_eq_some {s : State} {i : Instr} (h : fetch s = some i) :
    (∃ tx rx rest, s.inbox = .tick tx rx :: rest ∧ s.canStart = true ∧ i = Instr.ofState s.state) ∨
    (∃ r rest, s.inbox = .response r :: rest ∧ s.phase = .rx ∧ decodeResponse (r.take s.room) = .ok i) := by
  unfold fetch at h
  split at h
  · rename_i tx rx rest heq
    split at h
    · rename_i hc
      rw [decodeCommand_frame] at h
      cases h
      exact .inl ⟨tx, rx, rest, heq, hc, rfl⟩
    · simp at h
  · rename_i r rest heq
    split at h
    · rename_i hp
      cases hd : decodeResponse (r.take s.room) with
      | error e => simp [hd, Except.toOption] at h
      | ok j =>
        simp only [hd, Except.toOption, Option.some.injEq] at h
        exact .inr ⟨r, rest, heq, hp, h ▸ hd⟩
    · simp at h
  · simp at h
  · simp at h

/-- What a step can do, by the input at the head: a tick runs (R126) or is ignored (R121); a response answers the open
receive; an edge is sampled, with every input low when no input is listed. -/
theorem step_cases {s : State} {o : Host.Outcome State Fault Refusal} (h : step s = o) :
    (∃ tx rx rest, s.inbox = .tick tx rx :: rest ∧ s.canStart = true ∧ o = .next (s.consume.tick s.state tx rx)) ∨
    (∃ tx rx rest, s.inbox = .tick tx rx :: rest ∧ s.canStart = false ∧ o = .next s.consume.hold) ∨
    (∃ r rest, s.inbox = .response r :: rest ∧ o = respond (r.take s.room) s) ∨
    (∃ p rest, s.inbox = .edge p :: rest ∧ o = edge p s.consume) ∨
    (s.inbox = [] ∧ o = edge (quietPorts s.cfg) s) := by
  subst h
  unfold step
  cases hf : fetch s with
  | some i =>
    rcases fetch_eq_some hf with ⟨tx, rx, rest, hin, hc, rfl⟩ | ⟨r, rest, hin, hp, hd⟩
    · refine .inl ⟨tx, rx, rest, hin, hc, ?_⟩
      show exec _ s = _
      rw [exec_ofState]
      simp [runCommand, hin, hc]
    · obtain ⟨hcmd, henc⟩ := encode_of_decodeResponse hd
      refine .inr (.inr (.inl ⟨r, rest, hin, ?_⟩))
      show exec i s = _
      rw [exec_response hcmd, henc]
  | none =>
    show _ ∨ _
    cases hin : s.inbox with
    | nil =>
      refine .inr (.inr (.inr (.inr ⟨rfl, ?_⟩)))
      simp [noInstruction, hin]
    | cons x rest =>
      cases x with
      | edge p =>
        refine .inr (.inr (.inr (.inl ⟨p, rest, rfl, ?_⟩)))
        simp [noInstruction, hin]
      | tick tx rx =>
        have hc : s.canStart = false := by
          cases hc : s.canStart with
          | false => rfl
          | true => simp [fetch, hin, hc, decodeCommand_frame, Except.toOption] at hf
        refine .inr (.inl ⟨tx, rx, rest, rfl, hc, ?_⟩)
        simp [noInstruction, hin]
      | response r =>
        refine .inr (.inr (.inl ⟨r, rest, rfl, ?_⟩))
        simp only [noInstruction, hin]
        by_cases hp : s.phase = .rx
        · have hshort : (r.take s.room).length ≤ rxbufDepth :=
            (List.length_take_le _ _).trans ((Nat.sub_le _ _).trans (respLen_le _ _))
          have hempty : r.take s.room = [] := by
            by_contra hne
            obtain ⟨i, hi⟩ := decodeResponse_total hne hshort
            simp [fetch, hin, hp, hi, Except.toOption] at hf
          rw [hempty]
        · simp [respond, hp]

end Sys2Proof.Machine
end

