-- ==== Sys2Proof/Laws/PerInstr.lean ====
section
/-! SUPPORT. Facts about every instruction as syntax, one lemma for each constructor. -/

namespace Sys2Proof.Laws.EncodedLength

/-- A well-formed instruction has at least one byte and fits the buffer that holds the longest response (R8); a command
is no longer than `MAX_FRAME`. -/
def Statement (i : Instr) : Prop :=
  WellFormed i = true →
    1 ≤ (encode i).length ∧ (encode i).length ≤ rxbufDepth ∧
      (i.command?.isSome = true → (encode i).length ≤ maxFrame)

theorem haltStream : Statement .haltStream := by unfold Statement; decide
theorem getInterval : Statement .getInterval := by unfold Statement; decide
theorem vendorCode : Statement .vendorCode := by unfold Statement; decide
theorem serialNumber : Statement .serialNumber := by unfold Statement; decide
theorem hardwareRevision : Statement .hardwareRevision := by unfold Statement; decide
theorem softwareRevision : Statement .softwareRevision := by unfold Statement; decide
theorem productName : Statement .productName := by unfold Statement; decide
theorem partNumber : Statement .partNumber := by unfold Statement; decide

theorem any1 (first : Byte) (payload : List Byte) : Statement (.any1 first payload) := by
  intro h
  simp only [WellFormed, fitsBuffer, Bool.and_eq_true, decide_eq_true_eq] at h
  simp [encode, Instr.command?, h.1]

theorem ack1 (payload : List Byte) : Statement (.ack1 payload) := by
  intro h
  simp only [WellFormed, fitsBuffer, Bool.and_eq_true, decide_eq_true_eq] at h
  simp [encode, Instr.command?, Pattern.header, h.1]

theorem ack3 (payload : List Byte) : Statement (.ack3 payload) := by
  intro h
  simp only [WellFormed, fitsBuffer, decide_eq_true_eq] at h
  simp [encode, Instr.command?, Pattern.header, h]

theorem nak3 (payload : List Byte) : Statement (.nak3 payload) := by
  intro h
  simp only [WellFormed, fitsBuffer, decide_eq_true_eq] at h
  simp [encode, Instr.command?, Pattern.header, h]

theorem vack4 (payload : List Byte) : Statement (.vack4 payload) := by
  intro h
  simp only [WellFormed, fitsBuffer, decide_eq_true_eq] at h
  simp [encode, Instr.command?, Pattern.header, h]

end Sys2Proof.Laws.EncodedLength
end

