-- ==== Sys2Proof/Laws/Runs.lean ====
section
/-! SUPPORT. Runs of edges, and an edge whose reset is low and whose straps are steady. -/

namespace Sys2Proof.Machine

@[simp] theorem runEdges_nil (s : State) : runEdges [] s = .next s := rfl

theorem runEdges_cons_of_next {p : PortIn} {s t : State} (h : edge p s = .next t) (ps : List PortIn) :
    runEdges (p :: ps) s = runEdges ps t := by simp [runEdges, h]

/-- A run that goes on is the run of its second part from where the first part ends. -/
theorem runEdges_append_of_next {ps : List PortIn} {s t : State} (h : runEdges ps s = .next t) (qs : List PortIn) :
    runEdges (ps ++ qs) s = runEdges qs t := by
  induction ps generalizing s with
  | nil => cases h; rfl
  | cons p ps ih =>
    simp only [List.cons_append, runEdges] at h ⊢
    cases hv : edge p s with
    | next v => exact ih (by simpa [hv] using h)
    | fault e => simp [hv] at h
    | refused e => simp [hv] at h

@[simp] theorem length_firstEdges (w : Nat → PortIn) (n : Nat) : (firstEdges w n).length = n := by simp [firstEdges]

theorem firstEdges_succ (w : Nat → PortIn) (n : Nat) : firstEdges w (n + 1) = firstEdges w n ++ [w n] := by
  simp [firstEdges, List.range_succ]

theorem take_firstEdges (w : Nat → PortIn) {k n : Nat} (h : k ≤ n) : (firstEdges w n).take k = firstEdges w k := by
  simp [firstEdges, ← List.map_take, List.take_range, Nat.min_eq_left h]

/-- With `rst` low and the straps steady the phase alone says what an edge does (R129 to R135). -/
theorem edge_of_steady {p : PortIn} {s : State} (h : p.steady s.cfg) :
    edge p s = match s.phase with
      | .idle   => edgeIdle p s
      | .tx     => edgeTx p s
      | .rx     => edgeRx p s
      | .decide => edgeDecide s := by
  obtain ⟨h1, h2⟩ := h
  cases hp : s.phase <;> simp [edge, h1, h2, hp]

end Sys2Proof.Machine
end

