-- ==== Sys2Proof/Tests/Slice0.lean ====
section
/-! SUPPORT. Tests with results taken from the spec, and a witness for the hypotheses of every statement that has any. -/

namespace Sys2Proof.Tests

open Sys2Proof.Machine

/-! ## Helpers -/

/-- `n` bytes of 00, the filling of spec/95_test_vectors.md. -/
def zeros (n : Nat) : List Byte := List.replicate n 0

def strict : Config := { vendorMode := .canonical12, shortRead := .fullLength }
def legacy : Config := { vendorMode := .legacy23, shortRead := .patternExtent }

/-- Idle in the state `p`; these inputs come next. -/
def idleIn (cfg : Config) (p : ProtoState) (inputs : List Input) : State :=
  { State.reset with state := p, cfg := cfg, inbox := inputs }

/-- The host asks for a tick in the state `p`, answered `r`. -/
def asked (cfg : Config) (p : ProtoState) (r : List Byte) : State := idleIn cfg p [.tick .ok (.ok r)]

/-- The receive of the state `p` is open, nothing has arrived, and these inputs come next. -/
def openIn (cfg : Config) (p : ProtoState) (inputs : List Input) : State :=
  { idleIn cfg p inputs with phase := .rx, txidx := BitVec.ofNat 4 (oplen p) }

/-- Phase TX of the state `p`, nothing handed over yet. -/
def sendingIn (p : ProtoState) (inputs : List Input) : State := { idleIn Config.default p inputs with phase := .tx }

/-- Phase DECIDE of the state `p` with one byte received. -/
def decidingIn (p : ProtoState) (b : Byte) : State :=
  { openIn Config.default p [] with phase := .decide, rxcnt := 1, rxbuf := [(0, b)] }

def low : PortIn := quietPorts Config.default
def startEdge : PortIn := { low with tickStart := true }
def takenEdge : PortIn := { low with txReady := true }
def byteEdge (b : Byte) : PortIn := { low with rxValid := true, rxData := b }
def doneEdge : PortIn := { low with rxDone := true }
def errorEdge : PortIn := { low with tpError := true }
def resetEdge : PortIn := { low with rst := true }

/-- The next state, where the outcome is one. -/
def after (o : Host.Outcome State Fault Refusal) : Option State :=
  match o with
  | .next t => some t
  | .fault _ => none
  | .refused _ => none

/-- A line of the scripts of spec/95_test_vectors.md: class, next state, and the flags that are 1. -/
def line (cfg : Config) (p : ProtoState) (r : List Byte) : Option (Classification × ProtoState × List String) :=
  (after (exec (Instr.ofState p) (asked cfg p r))).bind fun t => t.report.map fun rep =>
    (rep.cls, t.state,
      (if rep.shortRead then ["short_read"] else []) ++ (if rep.mismatch then ["mismatch"] else []) ++
      (if rep.stateChanged then ["state_changed"] else []) ++
      (if rep.sessionComplete then ["session_complete"] else []) ++ (if rep.protoReset then ["proto_reset"] else []))

/-! ## Well-formedness: each check refuses an ill-formed term -/

theorem test_wf_any1_too_long : WellFormed (.any1 0 (zeros 23)) = false := by decide
theorem test_wf_any1_takes_no_ack1 : WellFormed (.any1 0x06 [0x0A, 0x15]) = false := by decide
theorem test_wf_any1_takes_no_nak3 : WellFormed (.any1 0x15 [0x0A, 0x01]) = false := by decide
theorem test_wf_any1_takes_no_vack4 : WellFormed (.any1 0x5B [0x06, 0x0A, 0x14, 0]) = false := by decide
theorem test_wf_ack1_too_long : WellFormed (.ack1 (zeros 23)) = false := by decide
theorem test_wf_ack1_takes_no_ack3 : WellFormed (.ack1 [0x0A, 0x14]) = false := by decide
theorem test_wf_ack3_too_long : WellFormed (.ack3 (zeros 21)) = false := by decide
theorem test_wf_nak3_too_long : WellFormed (.nak3 (zeros 21)) = false := by decide
theorem test_wf_vack4_too_long : WellFormed (.vack4 (zeros 20)) = false := by decide
theorem test_wf_longest :
    WellFormed (.any1 0x15 (zeros 22)) = true ∧ WellFormed (.ack1 (zeros 22)) = true ∧
    WellFormed (.ack3 (zeros 20)) = true ∧ WellFormed (.nak3 (zeros 20)) = true ∧
    WellFormed (.vack4 (zeros 19)) = true := by decide

/-! ## Decoding: the words of R70 and R66, byte by byte -/

theorem test_decode_haltStream : decodeTableWord 24 0x1001EF = some .haltStream := by decide
theorem test_decode_getInterval : decodeTableWord 40 0x100202FFED = some .getInterval := by decide
theorem test_decode_vendorCode : decodeTableWord 96 0x100A0A0000000000000000DC = some .vendorCode := by decide
theorem test_decode_serialNumber : decodeTableWord 96 0x100A0A0000000000000001DB = some .serialNumber := by decide
theorem test_decode_hardwareRevision :
    decodeTableWord 96 0x100A0A0000000000000002DA = some .hardwareRevision := by decide
theorem test_decode_softwareRevision :
    decodeTableWord 96 0x100A0A0000000000000003D9 = some .softwareRevision := by decide
theorem test_decode_productName : decodeTableWord 96 0x100A0A0000000000000004D8 = some .productName := by decide
theorem test_decode_partNumber : decodeTableWord 96 0x100A0A0000000000000005D7 = some .partNumber := by decide
theorem test_decode_any1 : decodeTableWord 8 0x00 = some (.any1 0x00 []) := by decide
theorem test_decode_ack1 : decodeTableWord 8 0x06 = some (.ack1 []) := by decide
theorem test_decode_ack3 : decodeTableWord 24 0x060A14 = some (.ack3 []) := by decide
theorem test_decode_nak3 : decodeTableWord 24 0x150A01 = some (.nak3 []) := by decide
theorem test_decode_vack4 : decodeTableWord 32 0x5B060A14 = some (.vack4 []) := by decide

/-- Section 2.3: the literals the source reports are no command. -/
theorem test_decode_rejects_literals :
    decodeCommand [0x10, 0x02, 0x02, 0xFF, 0x14] = .error .badChecksum ∧
    decodeCommand (queryPrefix ++ [0x05, 0x30]) = .error .badChecksum := by decide

/-- R64, R72: a selector of 6 and above is never sent; nor is a frame of four bytes, or other opcode bytes. -/
theorem test_decode_rejects_the_rest :
    decodeCommand (queryPrefix ++ [0x06, 0xD6]) = .error (.reservedSelector 0x06) ∧
    decodeCommand [0x10, 0x01, 0x00, 0xEF] = .error (.badLength 4) ∧
    decodeCommand [0x10, 0x03, 0xED] = .error .badOpcode ∧ decodeCommand [] = .error .empty ∧
    decodeResponse (zeros 24) = .error (.tooLong 24) := by decide

/-! ## Arithmetic: section 2.1 -/

theorem test_cksum_of_zero_sum : cksum [] = 0 ∧ cksum [0x80, 0x80] = 0 ∧ cksum [0x7F, 0x81] = 0 := by decide
theorem test_cksum_discards_carries :
    cksum [0xAB, 0xCD, 0xEF] = 0x99 ∧ sum8 [0xFF, 0xFF] = 0xFE ∧ cksum [0x80] = 0x80 := by decide

/-! ## Commands: section 2.4, 2.5 and the scripts of section 3 -/

theorem test_haltStream_nak_header_advances :
    line Config.default .haltStream [0x15, 0x0A, 0x01] =
      some (.ack, .getInterval, ["short_read", "state_changed"]) := by decide
theorem test_haltStream_empty : line strict .haltStream [] = some (.incomplete, .haltStream, ["short_read"]) := by decide
theorem test_getInterval_has_no_nak :
    line Config.default .getInterval [0x15] = some (.unrecognized, .getInterval, ["short_read", "mismatch"]) := by
  decide
theorem test_getInterval_strict :
    line strict .getInterval [0x06, 0x01, 0x02, 0x03, 0x04] = some (.ack, .vendorCode, ["state_changed"]) ∧
    line strict .getInterval [0x06] = some (.incomplete, .getInterval, ["short_read"]) := by decide
theorem test_vendorCode_nak_retries :
    line Config.default .vendorCode ([0x15, 0x0A, 0x01] ++ zeros 9) = some (.nak, .vendorCode, []) := by decide
theorem test_vendorCode_legacy :
    line legacy .vendorCode ([0x5B, 0x06, 0x0A, 0x14] ++ zeros 19) =
      some (.ack, .serialNumber, ["state_changed"]) ∧
    line legacy .vendorCode ([0x06, 0x0A, 0x14] ++ zeros 9) =
      some (.unrecognized, .vendorCode, ["short_read", "mismatch"]) := by decide
theorem test_serialNumber_shifted_header :
    line Config.default .serialNumber ([0x00, 0x06, 0x0A, 0x14] ++ zeros 8) =
      some (.unrecognized, .serialNumber, ["mismatch"]) := by decide
theorem test_hardwareRevision_nak :
    line Config.default .hardwareRevision [0x15, 0x0A, 0x01] =
      some (.nak, .haltStream, ["short_read", "state_changed", "proto_reset"]) ∧
    line strict .hardwareRevision [0x15, 0x0A, 0x01] =
      some (.incomplete, .hardwareRevision, ["short_read"]) := by decide
theorem test_softwareRevision_one_short_of_the_policy :
    line strict .softwareRevision ([0x06, 0x0A, 0x14] ++ zeros 8) =
      some (.incomplete, .softwareRevision, ["short_read"]) ∧
    line Config.default .softwareRevision ([0x06, 0x0A, 0x14] ++ zeros 8) =
      some (.ack, .productName, ["short_read", "state_changed"]) := by decide
theorem test_productName_ack :
    line Config.default .productName ([0x06, 0x0A, 0x14] ++ zeros 9) =
      some (.ack, .partNumber, ["state_changed"]) := by decide
theorem test_partNumber_ack_completes :
    line Config.default .partNumber [0x06, 0x0A, 0x14] =
      some (.ack, .partNumber, ["short_read", "session_complete"]) := by decide
theorem test_partNumber_nak_goes_back :
    line Config.default .partNumber ([0x15, 0x0A, 0x01] ++ zeros 9) =
      some (.nak, .haltStream, ["state_changed", "proto_reset"]) := by decide

/-- R70: what a tick sends. -/
theorem test_partNumber_sends :
    (after (exec .partNumber (asked Config.default .partNumber []))).map (·.wireTx) =
      some [0x10, 0x0A, 0x0A, 0, 0, 0, 0, 0, 0, 0, 0x05, 0xD7] := by decide

/-- Section 2.6, T5: a fault in the transmit after one byte. -/
theorem test_transmit_fault :
    (after (step (idleIn Config.default .haltStream [.tick (.error 1) (.ok [])]))).map
      (fun t => (t.state, t.fault, t.fphase, t.wireTx)) = some (.haltStream, true, .transmit, [0x10]) := by decide

/-- Section 2.6, T4: a fault in the receive after two bytes. -/
theorem test_receive_fault :
    (after (step (idleIn Config.default .partNumber [.tick .ok (.error [0x06, 0x0A])]))).map
      (fun t => (t.state, t.fault, t.fphase, t.rxbuf)) =
      some (.partNumber, true, .receive, [(0, 0x06), (1, 0x0A)]) := by decide

/-! ## Responses in an open receive: section 2.4 -/

/-- The state a response leads to from an open receive. -/
def leads (cfg : Config) (p : ProtoState) (i : Instr) : Option ProtoState :=
  (after (exec i (openIn cfg p []))).map (·.state)

theorem test_any1 :
    leads Config.default .haltStream (.any1 0xAA [0xBB, 0xCC, 0xDD]) = some .getInterval ∧
    leads Config.default .vendorCode (.any1 0x00 [0x06, 0x0A, 0x14]) = some .vendorCode := by decide
theorem test_ack1 :
    leads Config.default .getInterval (.ack1 [0xFF, 0xFF, 0xFF, 0xFF]) = some .vendorCode ∧
    leads Config.default .serialNumber (.ack1 [0, 0, 0, 0]) = some .serialNumber := by decide
theorem test_ack3 :
    leads Config.default .productName (.ack3 []) = some .partNumber ∧
    leads legacy .vendorCode (.ack3 (zeros 20)) = some .vendorCode := by decide
theorem test_nak3 :
    leads Config.default .serialNumber (.nak3 []) = some .haltStream ∧
    leads Config.default .getInterval (.nak3 []) = some .getInterval := by decide
theorem test_vack4 :
    leads legacy .vendorCode (.vack4 []) = some .serialNumber ∧
    leads Config.default .vendorCode (.vack4 []) = some .vendorCode := by decide

/-! ## Clock edges: the traces of section 2.7 -/

/-- T1, cycle 6: the checksum byte is offered as the last. -/
theorem test_edge_T1_checksum_byte :
    let s := { sendingIn .haltStream [] with txidx := 2, ckacc := 0x11 }
    s.ports.txData = some 0xEF ∧ s.ports.txLast = true ∧
    (after (edge takenEdge s)).map (fun t => (t.phase, t.txidx, t.ckacc)) = some (.rx, 2, 0) := by decide

/-- T1, cycle 11: the DECIDE cycle. -/
theorem test_edge_T1_decide :
    let s := decidingIn .haltStream 0x01
    s.ports.tickDone = true ∧ s.ports.cls = some 0 ∧ s.ports.nextState = some 1 ∧ s.ports.shortRead = some true ∧
    s.ports.stateChanged = some true ∧ (after (edge low s)).map (·.state) = some .getInterval := by decide

/-- T3, cycle 15: the byte that comes with `rx_done` is accepted first. -/
theorem test_edge_T3_byte_with_done :
    (after (edge { byteEdge 0x01 with rxDone := true }
      { openIn Config.default .serialNumber [] with rxcnt := 2, rxbuf := [(0, 0x15), (1, 0x0A)] })).map
      (fun t => (t.phase, t.rxcnt, t.rxbuf)) =
      some (.decide, 3, [(0, 0x15), (1, 0x0A), (2, 0x01)]) := by decide

/-- T4, cycle 15: the byte that comes with `tp_error` is not accepted. -/
theorem test_edge_T4_byte_with_error :
    (after (edge { byteEdge 0x14 with tpError := true }
      { openIn Config.default .partNumber [] with rxcnt := 2, rxbuf := [(0, 0x06), (1, 0x0A)] })).map
      (fun t => (t.phase, t.rxcnt, t.fault, t.fphase)) = some (.idle, 2, true, .receive) := by decide

/-- T5, cycle 2: `tp_error` beats `tx_ready`. -/
theorem test_edge_T5_error_beats_ready :
    (after (edge { takenEdge with tpError := true }
      { sendingIn .haltStream [] with txidx := 1, ckacc := 0x10 })).map
      (fun t => (t.txidx, t.ckacc, t.fault, t.wireTx)) = some (1, 0x10, true, []) := by decide

/-- T6, cycle 3: reset in phase TX, the offered byte being taken at that edge. -/
theorem test_edge_T6_reset :
    (after (edge { resetEdge with txReady := true }
      { sendingIn .hardwareRevision [] with txidx := 2, ckacc := 0x1A, wireTx := [0x10, 0x0A] })).map
      (fun t => (t.state, t.phase, t.txidx, t.wireTx)) =
      some (.haltStream, .idle, 0, [0x10, 0x0A, 0x0A]) := by decide

/-! ## Witnesses: the hypotheses of each statement, met together -/

/-- Twelve bytes that acknowledge a query, refuse it, or do neither. -/
def ackBytes : List Byte := [0x06, 0x0A, 0x14] ++ zeros 9
def nakBytes : List Byte := [0x15, 0x0A, 0x01] ++ zeros 9
def otherBytes : List Byte := List.replicate 12 0xFF

theorem asked_requested (cfg : Config) (p : ProtoState) (r : List Byte) :
    Requested (asked cfg p r) .ok (.ok r) [] := ⟨rfl, rfl, rfl⟩

theorem low_steady : low.steady Config.default := ⟨rfl, rfl⟩

theorem witness_DecodeOfEncodeIsTheInstruction :
    (WellFormed .partNumber = true ∧ Instr.partNumber.command?.isSome = true) ∧
    (WellFormed (.any1 0x5B ([0x06, 0x0A] ++ zeros 20)) = true ∧
      (Instr.any1 0x5B ([0x06, 0x0A] ++ zeros 20)).command? = none) ∧
    WellFormed (.ack1 ([0x0A, 0x15] ++ zeros 20)) = true ∧ WellFormed (.ack3 (zeros 20)) = true ∧
    WellFormed (.nak3 (zeros 20)) = true ∧ WellFormed (.vack4 (zeros 19)) = true := by decide

theorem witness_EveryResponseDecodesWithoutLoss :
    (zeros 23 ≠ [] ∧ (zeros 23).length ≤ rxbufDepth) ∧ ([0x06] : List Byte).length ≤ rxbufDepth ∧
    decodeResponse [0x06] = .ok (.ack1 []) ∧ decodeResponse (zeros 23) = .ok (.any1 0 (zeros 22)) := by decide

theorem witness_ResponsesAreReadUnderTheMostSpecificPattern :
    decodeResponse [0x06, 0x0A] = .ok (.ack1 [0x0A]) ∧ decodeResponse [0x06, 0x0A, 0x14] = .ok (.ack3 []) ∧
    decodeResponse [0x15, 0x0A, 0x01] = .ok (.nak3 []) ∧ decodeResponse [0x15, 0x0A] = .ok (.any1 0x15 [0x0A]) ∧
    decodeResponse [0x5B, 0x06, 0x0A, 0x14] = .ok (.vack4 []) := by decide

theorem witness_BytesPastTheHeaderNeverMatter :
    ackBytes.length = ([0x06, 0x0A, 0x14, 0x00] ++ List.replicate 8 0xFF : List Byte).length ∧
    ackBytes.take 4 = ([0x06, 0x0A, 0x14, 0x00] ++ List.replicate 8 0xFF : List Byte).take 4 := by decide

theorem witness_ImpossibleClassificationsNeverOccur :
    nakPat .vendorCode = some .nak3 ∧ nakPat .partNumber = some .nak3 := by decide

theorem witness_ShortReadsAndMismatchesAreReported :
    strict.shortRead = .fullLength ∧ ProtoState.getInterval ≠ .haltStream ∧
    (tickReport strict .getInterval (zeros 4)).shortRead = true := by decide

theorem witness_NoStepSkipsAState :
    ∃ t, step (asked Config.default .softwareRevision ackBytes) = .next t ∧ t.state = .productName := ⟨_, rfl, rfl⟩

theorem witness_GoingBackTakesANakOrAReset :
    (∃ t, step (asked Config.default .serialNumber nakBytes) = .next t ∧ t.state = .haltStream) ∧
    (∃ t, step (idleIn Config.default .partNumber [.edge resetEdge]) = .next t ∧ t.state = .haltStream) :=
  ⟨⟨_, rfl, rfl⟩, ⟨_, rfl, rfl⟩⟩

theorem witness_OnlyACompletedTickWritesState :
    (∃ t, step (asked Config.default .vendorCode ackBytes) = .next t ∧ t.state ≠ .vendorCode) ∧
    (∃ t, step (idleIn Config.default .partNumber [.edge resetEdge]) = .next t ∧ t.state ≠ .partNumber) :=
  ⟨⟨_, rfl, by decide⟩, ⟨_, rfl, by decide⟩⟩

theorem witness_HaltStreamTick :
    Requested (asked Config.default .haltStream [0xAA]) .ok (.ok [0xAA]) [] ∧
    Requested (asked strict .haltStream []) .ok (.ok []) [] := ⟨asked_requested _ _ _, asked_requested _ _ _⟩

theorem witness_GetIntervalTick :
    Requested (asked strict .getInterval (zeros 5)) .ok (.ok (zeros 5)) [] ∧
    Classification.unrecognized = (if ((zeros 5).take 5).length < (if strict.shortRead = .fullLength then 5 else 1)
      then .incomplete else if (zeros 5).head? = some 0x06 then .ack else .unrecognized) :=
  ⟨asked_requested _ _ _, by decide⟩

theorem witness_VendorCodeTickCanonical :
    (∀ r, Requested (asked strict .vendorCode r) .ok (.ok r) []) ∧ strict.vendorMode = .canonical12 ∧
    Classification.nak = judged 12 [0x06, 0x0A, 0x14] (nakBytes.take 12) ∧
    Classification.ack = judged 12 [0x06, 0x0A, 0x14] (ackBytes.take 12) ∧
    Classification.unrecognized = judged 12 [0x06, 0x0A, 0x14] (otherBytes.take 12) ∧
    Classification.incomplete = judged 12 [0x06, 0x0A, 0x14] ((zeros 11).take 12) :=
  ⟨fun _ => asked_requested _ _ _, rfl, by decide, by decide, by decide, by decide⟩

theorem witness_VendorCodeTickLegacy :
    Requested (asked legacy .vendorCode (0x5B :: ackBytes)) .ok (.ok (0x5B :: ackBytes)) [] ∧
    legacy.vendorMode = .legacy23 ∧
    Classification.ack = judged 4 [0x5B, 0x06, 0x0A, 0x14] ((0x5B :: ackBytes).take 23) :=
  ⟨asked_requested _ _ _, rfl, by decide⟩

theorem witness_QueryTicks :
    Requested (asked Config.default .productName otherBytes) .ok (.ok otherBytes) [] ∧
    Classification.unrecognized = judged 3 [0x06, 0x0A, 0x14] (otherBytes.take 12) ∧
    Classification.nak = judged 3 [0x06, 0x0A, 0x14] (nakBytes.take 12) ∧
    Classification.ack = judged 12 [0x06, 0x0A, 0x14] (ackBytes.take 12) ∧
    Classification.incomplete = judged 3 [0x06, 0x0A, 0x14] ([0x06, 0x0A].take 12) :=
  ⟨asked_requested _ _ _, by decide, by decide, by decide, by decide⟩

theorem witness_TransmitFaultIsTaken :
    Requested (idleIn Config.default .getInterval [.tick (.error 9) (.ok [])]) (.error 9) (.ok []) [] :=
  ⟨rfl, rfl, rfl⟩

theorem witness_ReceiveFaultIsTakenAndOverDeliveryIsCut :
    Requested (idleIn Config.default .getInterval [.tick .ok (.error (zeros 5))]) .ok (.error (zeros 5)) [] ∧
    (zeros 23).length = respLen legacy .vendorCode := ⟨⟨rfl, rfl, rfl⟩, by decide⟩

theorem witness_RequestsAreIgnoredWhileBusyOrFaulted :
    (openIn Config.default .getInterval [.tick .ok (.ok [])]).phase ≠ .idle ∧
    (openIn Config.default .getInterval [.tick .ok (.ok [])]).inbox = [.tick .ok (.ok [])] ∧
    (∃ s : State, s.inbox = [.tick .ok (.ok [])] ∧ s.phase = .idle ∧ s.fault = true) :=
  ⟨by decide, rfl, { asked Config.default .haltStream [] with fault := true }, rfl, rfl, rfl⟩

theorem witness_NakResetsFromEveryQueryState :
    Requested (asked strict .partNumber nakBytes) .ok (.ok nakBytes) [] ∧
    3 ≤ (asked strict .partNumber nakBytes).state.code.toNat ∧ nakBytes.take 3 = [0x15, 0x0A, 0x01] ∧
    12 ≤ nakBytes.length ∧ 3 ≤ ProtoState.serialNumber.code.toNat :=
  ⟨asked_requested _ _ _, by decide, by decide, by decide, by decide⟩

theorem witness_CommandsChangeNothingElse :
    (∃ t, exec .vendorCode (asked legacy .vendorCode (zeros 23)) = .next t) ∧
    (storedByTick legacy .vendorCode .ok (.ok (zeros 23))).length = 23 ∧
    (∃ t, exec .getInterval (idleIn legacy .getInterval [.tick .ok (.error (zeros 5))]) = .next t) ∧
    (storedByTick legacy .getInterval .ok (.error (zeros 5))).length = 4 ∧
    (∃ t, exec .getInterval (idleIn legacy .getInterval [.tick (.error 2) (.ok [])]) = .next t) :=
  ⟨⟨_, rfl⟩, by decide, ⟨_, rfl⟩, by decide, ⟨_, rfl⟩⟩

/-- One byte has arrived; the open receive takes eleven more. -/
def partly : State := { openIn Config.default .serialNumber [.response (zeros 12)] with rxcnt := 1, rxbuf := [(0, 0x06)] }

theorem partly_response : partly.response = .ok [0x06] := by decide

theorem witness_ResponseIsTakenAndDecided :
    (Instr.any1 0x0A (0x14 :: zeros 21)).command? = none ∧ partly.phase = .rx ∧ partly.response = .ok [0x06] ∧
    partly.rxcnt.toNat ≤ respLen partly.cfg partly.state ∧
    [0x0A, 0x14] ++ zeros 9 = (encode (.any1 0x0A (0x14 :: zeros 21))).take
      (respLen partly.cfg partly.state - partly.rxcnt.toNat) ∧
    Classification.ack = classify partly.cfg partly.state ([0x06] ++ ([0x0A, 0x14] ++ zeros 9)) :=
  ⟨rfl, rfl, partly_response, by decide, by decide, by decide⟩

/-- Exactly the length asked for, under the strict policy, in every state that asks for more than a header; and the
shortest that will do under the default policy. -/
theorem witness_HeadersMoveTheStatesThatLookForThem :
    (openIn strict .haltStream []).phase = .rx ∧ (openIn strict .haltStream []).rxcnt = 0 ∧
    minLen strict .getInterval = 1 + (zeros 4).length ∧ minLen strict .vendorCode = 3 + (zeros 9).length ∧
    minLen { legacy with shortRead := .fullLength } .vendorCode = 4 + (zeros 19).length ∧
    minLen legacy .vendorCode = 4 + (zeros 0).length ∧ minLen strict .partNumber = 3 + (zeros 9).length ∧
    minLen Config.default .serialNumber = 3 + (zeros 0).length ∧ legacy.vendorMode = .legacy23 ∧
    strict.vendorMode = .canonical12 ∧ WellFormed (.vack4 (zeros 19)) = true ∧ WellFormed (.ack3 (zeros 9)) = true := by
  decide

theorem witness_ResponseOutsideAReceiveIsNotTaken :
    (Instr.ack3 []).command? = none ∧ (sendingIn .serialNumber [.response ackBytes]).phase ≠ .rx ∧
    State.reset.phase ≠ .rx := by decide

theorem witness_ResponsesChangeNothingElse :
    (∃ t, exec (.ack3 (zeros 20)) partly = .next t ∧ 12 ≤ partly.rxcnt.toNat +
      ((encode (.ack3 (zeros 20))).take (respLen partly.cfg partly.state - partly.rxcnt.toNat)).length) ∧
    (∃ t, exec (.nak3 []) State.reset = .next t) := ⟨⟨_, rfl, by decide⟩, ⟨_, rfl⟩⟩

theorem witness_TickIsTransmitThenResponse :
    Requested (asked legacy .haltStream nakBytes) .ok (.ok nakBytes) [] ∧
    decodeResponse (nakBytes.take (respLen legacy .haltStream)) = .ok (.nak3 [0]) :=
  ⟨asked_requested _ _ _, by decide⟩

theorem witness_IdleEdgeStartsATick :
    startEdge.steady State.reset.cfg ∧ State.reset.phase = .idle ∧ startEdge.tickStart = true ∧
    State.reset.fault = false := ⟨⟨rfl, rfl⟩, rfl, rfl, rfl⟩

theorem sendingIn_inv : (sendingIn .haltStream []).Inv := by constructor <;> decide

/-- The last byte of HaltStream's frame is offered. -/
def lastByte (inputs : List Input) : State := { sendingIn .haltStream inputs with txidx := 2, ckacc := 0x11 }

theorem lastByte_inv (inputs : List Input) : (lastByte inputs).Inv := by
  constructor <;> simp only [lastByte, sendingIn, idleIn, State.reset] <;> decide

theorem witness_TransmitEdgeHandsOverTheFrame :
    (sendingIn .haltStream []).Inv ∧ (lastByte []).Inv ∧ takenEdge.steady (lastByte []).cfg ∧
    (lastByte []).phase = .tx ∧ takenEdge.tpError = false ∧ takenEdge.txReady = true ∧
    low.steady (lastByte []).cfg ∧ low.txReady = false :=
  ⟨sendingIn_inv, lastByte_inv _, ⟨rfl, rfl⟩, rfl, rfl, rfl, ⟨rfl, rfl⟩, rfl⟩

theorem witness_ReceiveEdgeStoresAndEnds :
    (byteEdge 0x0A).steady partly.cfg ∧ partly.phase = .rx ∧ (byteEdge 0x0A).tpError = false ∧
    (2 : BitVec 5) = (if (byteEdge 0x0A).rxValid = true ∧ partly.rxcnt.toNat < respLen partly.cfg partly.state then
      partly.rxcnt + 1 else partly.rxcnt) := ⟨⟨rfl, rfl⟩, rfl, rfl, by decide⟩

theorem witness_DecideCycleShowsTheOutputsAndWritesState :
    low.steady (decidingIn .getInterval 0x06).cfg ∧ (decidingIn .getInterval 0x06).phase = .decide ∧
    (decidingIn .getInterval 0x06).response = .ok [0x06] ∧
    Classification.ack = classify Config.default .getInterval [0x06] ∧
    ProtoState.vendorCode = next .getInterval .ack ∧ State.reset.phase ≠ .decide :=
  ⟨⟨rfl, rfl⟩, rfl, by decide, by decide, rfl, by decide⟩

theorem witness_TransportFaultEdge :
    errorEdge.steady (lastByte []).cfg ∧ errorEdge.tpError = true ∧ (lastByte []).phase = .tx ∧
    partly.phase = .rx ∧ errorEdge.steady partly.cfg ∧ State.reset.phase = .idle ∧
    (decidingIn .haltStream 0).phase = .decide := ⟨⟨rfl, rfl⟩, rfl, rfl, rfl, ⟨rfl, rfl⟩, rfl, rfl⟩

theorem witness_ResetEdgeWinsOverEverything :
    resetEdge.rst = true ∧ (∃ t, edge resetEdge partly = .next t) ∧
    (∃ t, edge { resetEdge with txReady := true } (lastByte []) = .next t ∧ (lastByte []).txByte = .ok 0xEF ∧
      t.wireTx = [0xEF]) := ⟨rfl, ⟨_, rfl⟩, ⟨_, rfl, rfl, by decide⟩⟩

theorem witness_ChangingTheStrapsIsRefused :
    { low with cfgStrictLen := true : PortIn }.rst = false ∧
    { low with cfgStrictLen := true : PortIn }.config ≠ State.reset.cfg := by decide

/-- R137 as a check that can be evaluated. -/
def tickRunCheck (ps : List PortIn) (s t : State) : Bool :=
  s.canStart && ps.all (fun p => !p.rst && p.config == s.cfg) && ps.head?.any (·.tickStart) &&
  after (runEdges ps s) == some t && t.phase == .idle &&
  (List.range ps.length).all (fun n => n == 0 || (after (runEdges (ps.take n) s)).all (fun u => u.phase != .idle))

theorem after_eq_some {o : Host.Outcome State Fault Refusal} {t : State} : after o = some t ↔ o = .next t := by
  cases o <;> simp [after]

theorem isTickRun_of_check {ps : List PortIn} {s t : State} (h : tickRunCheck ps s t = true) : IsTickRun ps s t := by
  simp only [tickRunCheck, Bool.and_eq_true, beq_iff_eq, List.all_eq_true, Bool.not_eq_true', Option.any_eq_true,
    List.mem_range, Bool.or_eq_true, Option.all_eq_true, bne_iff_ne, ne_eq, after_eq_some] at h
  obtain ⟨⟨⟨⟨⟨h1, h2⟩, h3⟩, h4⟩, h5⟩, h6⟩ := h
  exact ⟨h1, h2, h3, h4, h5, fun n h0 hn u hu => (h6 n hn).resolve_left (by omega) u hu⟩

/-- Trace T1 without its idle cycles: HaltStream answered by one byte. -/
def traceT1 : List PortIn := [startEdge, takenEdge, low, takenEdge, takenEdge, low, byteEdge 0x01, low, doneEdge, low]

theorem traceT1_isTickRun :
    IsTickRun traceT1 State.reset (State.reset.tick .haltStream .ok (.ok [0x01])) :=
  isTickRun_of_check (by decide)

/-- Trace T5: HaltStream's transmit fails after one byte. -/
theorem traceT5_isTickRun :
    IsTickRun [startEdge, takenEdge, { takenEdge with tpError := true }] State.reset
      (State.reset.tick .haltStream (.error 1) (.ok [])) := isTickRun_of_check (by decide)

/-- As trace T4: the receive fails after one byte. -/
theorem traceT4_isTickRun :
    IsTickRun [startEdge, takenEdge, takenEdge, takenEdge, byteEdge 0x06, errorEdge] State.reset
      (State.reset.tick .haltStream .ok (.error [0x06])) := isTickRun_of_check (by decide)

theorem witness_EdgesOfATickRefineTheTick : ∃ ps t, IsTickRun ps State.reset t ∧ t.state = .getInterval :=
  ⟨_, _, traceT1_isTickRun, by decide⟩

theorem witness_EveryTickIsSomeRunOfEdges : State.reset.canStart = true := by decide

theorem witness_CompletedTickTakesAtLeastItsFrame :
    ∃ ps t, IsTickRun ps State.reset t ∧ t.fault = false := ⟨_, _, traceT1_isTickRun, by decide⟩

theorem witness_AnOpenReceiveWaitsForEver :
    (openIn Config.default .partNumber []).phase = .rx ∧ (openIn Config.default .partNumber []).inbox = [] ∧
    (openIn Config.default .partNumber []).rxcnt.toNat < respLen Config.default .partNumber := by decide

theorem reset_inv : State.reset.Inv := by constructor <;> decide

theorem witness_EveryStepKeepsTheInvariant :
    (∃ t, State.reset.Inv ∧ step State.reset = .next t) ∧
    (∃ t, (lastByte [.edge takenEdge]).Inv ∧ step (lastByte [.edge takenEdge]) = .next t) :=
  ⟨⟨_, reset_inv, rfl⟩, ⟨_, lastByte_inv _, rfl⟩⟩

theorem witness_NoStepStopsUnderTheInvariant :
    State.reset.Inv ∧ (lastByte [.edge { low with cfgStrictLen := true }]).Inv ∧
    step (lastByte [.edge { low with cfgStrictLen := true }]) = .refused .strapsChanged :=
  ⟨reset_inv, lastByte_inv _, rfl⟩

theorem witness_ChecksumSelfCheckNeverFails :
    ∃ t, (lastByte [.edge takenEdge]).Inv ∧ step (lastByte [.edge takenEdge]) = .next t ∧ t.phase = .rx :=
  ⟨_, lastByte_inv _, rfl, rfl⟩

/-- PartNumber after a fault in the receive. -/
def faulted (inputs : List Input) : State :=
  { idleIn Config.default .partNumber inputs with fault := true, fphase := .receive }

theorem faulted_inv (inputs : List Input) : (faulted inputs).Inv := by
  constructor <;> simp only [faulted, idleIn, State.reset] <;> decide

theorem witness_AFaultedBlockDoesNothing :
    ∃ t, (faulted [.edge startEdge]).Inv ∧ (faulted [.edge startEdge]).fault = true ∧
      step (faulted [.edge startEdge]) = .next t ∧ ¬(faulted [.edge startEdge]).resetNext :=
  ⟨_, faulted_inv _, rfl, rfl, by
    rintro ⟨p, rest, h, hr⟩
    simp only [faulted, idleIn, List.cons.injEq, Input.edge.injEq] at h
    rw [← h.1] at hr
    exact absurd hr (by decide)⟩

theorem witness_OnlyATransportErrorSetsFault :
    (∃ t, step (lastByte [.edge errorEdge]) = .next t ∧ (lastByte [.edge errorEdge]).fault = false ∧ t.fault = true) ∧
    (∃ t, step (idleIn Config.default .partNumber [.tick .ok (.error [])]) = .next t ∧ t.fault = true) :=
  ⟨⟨_, rfl, rfl, rfl⟩, ⟨_, rfl, rfl⟩⟩

theorem witness_StepRunsTheFetchedInstruction :
    (Requested (asked Config.default .partNumber []) .ok (.ok []) [] ∧
      decodeCommand (frame .partNumber) = .ok .partNumber) ∧
    (partly.inbox = .response (zeros 12) :: [] ∧ partly.phase = .rx ∧
      decodeResponse ((zeros 12).take (respLen partly.cfg partly.state - partly.rxcnt.toNat)) =
        .ok (.any1 0 (zeros 10))) ∧
    (lastByte [.edge takenEdge]).inbox = .edge takenEdge :: [] ∧ State.reset.inbox = [] :=
  ⟨⟨asked_requested _ _ _, by decide⟩, ⟨rfl, rfl, by decide⟩, rfl, rfl⟩

theorem witness_APlacedWordIsTheNextInstruction :
    decodeTableWord 24 0x150A01 = some (.nak3 []) ∧ decodeTableWord 24 0x1001EF = some .haltStream := by decide

theorem witness_VendorModeMattersOnlyAtVendorCode :
    Requested (asked legacy .partNumber ackBytes) .ok (.ok ackBytes) [] ∧
    (asked legacy .partNumber ackBytes).state ≠ .vendorCode := ⟨asked_requested _ _ _, by decide⟩

theorem witness_WorkingRegistersDoNotReachTheNextTick :
    ∃ s₁ s₂ : State, Requested s₁ .ok (.ok ackBytes) [] ∧ Requested s₂ .ok (.ok ackBytes) [] ∧
      s₁.state = s₂.state ∧ s₁.cfg = s₂.cfg ∧ s₁.rxbuf ≠ s₂.rxbuf ∧ s₁.txidx ≠ s₂.txidx ∧ s₁.ckacc ≠ s₂.ckacc :=
  ⟨asked Config.default .serialNumber ackBytes,
    { asked Config.default .serialNumber ackBytes with rxbuf := [(22, 0xFF)], rxcnt := 9, txidx := 4, ckacc := 0x55 },
    ⟨rfl, rfl, rfl⟩, ⟨rfl, rfl, rfl⟩, rfl, rfl, by decide, by decide, by decide⟩

theorem witness_PartNumberKeepsPolling :
    ∃ rs : List (List Byte), rs.length = 2 ∧
      (idleIn Config.default .partNumber (rs.map fun r => .tick .ok (.ok r))).inbox =
        rs.map (fun r => .tick .ok (.ok r)) ++ [] ∧
      ∀ r ∈ rs, 12 ≤ r.length ∧ r.take 3 = [0x06, 0x0A, 0x14] :=
  ⟨[ackBytes, ackBytes], rfl, rfl, by decide⟩

theorem witness_RetriesAreUnbounded :
    (idleIn Config.default .vendorCode [.tick .ok (.ok nakBytes), .tick .ok (.ok [])]).inbox =
      [nakBytes, []].map (fun r => .tick .ok (.ok r)) ++ [] ∧
    ∀ r ∈ [nakBytes, []], classify Config.default .vendorCode (r.take (respLen Config.default .vendorCode)) ≠ .ack :=
  ⟨rfl, by decide⟩

theorem witness_AcknowledgedSessionReachesPartNumber :
    ∃ rs : List (List Byte), rs.length = 7 - ProtoState.haltStream.code.toNat ∧
      (idleIn Config.default .haltStream (rs.map fun r => .tick .ok (.ok r))).inbox =
        rs.map (fun r => .tick .ok (.ok r)) ++ [] ∧
      ∀ r ∈ rs, 12 ≤ r.length ∧ r.take 3 = [0x06, 0x0A, 0x14] :=
  ⟨List.replicate 7 ackBytes, by decide, rfl, by decide⟩

theorem witness_UnspecifiedBytesAreNeverRead :
    rxbufDepth ≤ 23 ∧ 22 < rxbufDepth ∧ State.reset.rxcnt.toNat ≤ 0 ∧
    (∃ s : State, s.Inv ∧ 0 < s.rxcnt.toNat ∧ s.rxbuf.read 0 = some 0x06) :=
  ⟨by decide, by decide, by decide, { State.reset with rxcnt := 1, rxbuf := [(0, 0x06)] },
    by constructor <;> decide, by decide, by decide⟩

/-- A transport that accepts every byte and ends every receive. -/
def eager : PortIn := { low with tickStart := true, txReady := true, rxDone := true }

theorem witness_AFairTransportEndsEveryTick :
    State.reset.canStart = true ∧ eager.tickStart = true ∧ eager.steady State.reset.cfg ∧
    FairTransport (fun _ => eager) State.reset :=
  ⟨by decide, rfl, ⟨rfl, rfl⟩, ⟨fun n _ _ _ => ⟨n, Nat.le_refl n, .inl rfl⟩,
    fun n _ _ _ => ⟨n, Nat.le_refl n, .inr (.inl rfl)⟩⟩⟩

end Sys2Proof.Tests
end

section
/-! Proofs of the frame codec statements: the checksum arithmetic of R80 and R81, the built frames of R82 and the minimum
response length of R87. -/

namespace Sys2Proof

@[simp] theorem byteSum_nil : byteSum [] = 0 := rfl

@[simp] theorem byteSum_cons (b : Byte) (x : List Byte) : byteSum (b :: x) = b.toNat + byteSum x := by
  simp [byteSum]

/-- Dropping the carries byte by byte, from any start value, is reducing the integer sum once. -/
theorem foldl_add_toNat (acc : Byte) (x : List Byte) :
    (x.foldl (fun a b => a + b) acc).toNat = (acc.toNat + byteSum x) % 256 := by
  induction x generalizing acc with
  | nil => exact (Nat.mod_eq_of_lt acc.isLt).symm
  | cons b x ih =>
    calc ((b :: x).foldl (fun a b => a + b) acc).toNat
        = ((acc + b).toNat + byteSum x) % 256 := ih (acc + b)
      _ = (acc.toNat + byteSum (b :: x)) % 256 := by
        rw [BitVec.toNat_add, byteSum_cons, Nat.mod_add_mod, Nat.add_assoc]

theorem sum8_toNat (x : List Byte) : (sum8 x).toNat = byteSum x % 256 := by
  simpa [sum8] using foldl_add_toNat 0 x

theorem cksum_toNat (x : List Byte) : (cksum x).toNat = (256 - byteSum x % 256) % 256 := by
  simp [cksum]

theorem cksum_toNat_eq_sum8 (x : List Byte) : (cksum x).toNat = (256 - (sum8 x).toNat) % 256 := by
  rw [cksum_toNat, sum8_toNat]

/-- The checksum is the two's complement of the byte sum; the other forms of R81 follow from this one. -/
theorem cksum_eq_neg_sum8 (x : List Byte) : cksum x = -sum8 x := by
  apply BitVec.eq_of_toNat_eq
  rw [cksum_toNat_eq_sum8, BitVec.toNat_neg]

theorem buildFrame_length (x : List Byte) : (buildFrame x).length = x.length + 1 := by
  simp [buildFrame]

/-- Settles O6: the accumulator started at 0. -/
theorem byteSumWrapsModulo256 : Obligations.ByteSumWrapsModulo256 :=
  ⟨rfl, sum8_toNat⟩

/-- Settles O7: the checksum is the two's complement of the byte sum. -/
theorem checksumFormsAgree : Obligations.ChecksumFormsAgree := by
  refine ⟨fun x => ⟨cksum_toNat x, cksum_toNat_eq_sum8 x, ?_, ?_, fun hzero => ?_, ?_⟩, by decide⟩
  · exact (cksum_eq_neg_sum8 x).trans (BitVec.zero_sub _).symm
  · rw [cksum_eq_neg_sum8, BitVec.neg_eq_not_add]
    rfl
  · rw [cksum_eq_neg_sum8, hzero]
    rfl
  · exact Nat.le_of_lt_succ (cksum x).isLt

/-- Settles O8: building appends one byte, and each frame of R70 is computed from its ROM bytes. -/
theorem builtFrameKeepsTheOpcodeAndAddsOneByte : Obligations.BuiltFrameKeepsTheOpcodeAndAddsOneByte := by
  refine ⟨fun x => ⟨rfl, buildFrame_length x⟩, fun p => ⟨rfl, rom_length p⟩, ?_⟩
  decide

namespace Machine

theorem minLen_of_patternExtent {cfg : Config} (h : cfg.shortRead = .patternExtent) (p : ProtoState) :
    minLen cfg p = extent cfg p := by
  simp only [minLen, h]

theorem minLen_of_fullLength {cfg : Config} (h : cfg.shortRead = .fullLength) {p : ProtoState}
    (hp : p ≠ .haltStream) : minLen cfg p = respLen cfg p := by
  simp only [minLen, h, if_neg hp]

theorem minLen_haltStream (cfg : Config) : minLen cfg .haltStream = 1 := by
  obtain ⟨v, policy⟩ := cfg
  cases policy <;> rfl

/-- Settles O13: the extents of R86 under one policy, the lengths asked for of R71 under the other. `VENDOR_MODE`
decides in VendorCode only. -/
theorem minimumLengthOfEveryState : Obligations.MinimumLengthOfEveryState := by
  intro v
  constructor
  · intro p
    rw [minLen_of_patternExtent rfl]
    cases p with
    | vendorCode => cases v <;> rfl
    | _ => rfl
  · intro p
    cases p with
    | haltStream => exact minLen_haltStream _
    | vendorCode =>
      rw [minLen_of_fullLength rfl (by decide)]
      cases v <;> rfl
    | _ => exact minLen_of_fullLength rfl (by decide)

end Machine

end Sys2Proof
end

section
/-! Proofs of the session driver's edge statements: the edge in phase IDLE (R129) and the transport fault (R135). -/

namespace Sys2Proof.Machine

theorem edge_of_idle {p : PortIn} {s : State} (h : p.steady s.cfg) (hp : s.phase = .idle) :
    edge p s = edgeIdle p s := by
  rw [edge_of_steady h, hp]

theorem edge_of_tx {p : PortIn} {s : State} (h : p.steady s.cfg) (hp : s.phase = .tx) : edge p s = edgeTx p s := by
  rw [edge_of_steady h, hp]

theorem edge_of_rx {p : PortIn} {s : State} (h : p.steady s.cfg) (hp : s.phase = .rx) : edge p s = edgeRx p s := by
  rw [edge_of_steady h, hp]

/-- R129: the edge that starts a tick. -/
theorem edgeIdle_of_start {p : PortIn} {s : State} (h : p.tickStart = true ∧ s.fault = false) :
    edgeIdle p s = .next s.beginTick := by
  simp [edgeIdle, h]

/-- R129, R121: without a request, or with `FAULT` = 1, an idle block waits. -/
theorem edgeIdle_of_not_start {p : PortIn} {s : State} (h : ¬(p.tickStart = true ∧ s.fault = false)) :
    edgeIdle p s = .next s.hold :=
  if_neg (by simpa using h)

/-- R135: in phase TX the fault is looked at before `tx_ready`. -/
theorem edgeTx_of_tpError {p : PortIn} (h : p.tpError = true) (s : State) :
    edgeTx p s = .next (s.takeTransportError .transmit) :=
  if_pos h

/-- R135: in phase RX the fault is looked at before `rx_valid` and `rx_done`. -/
theorem edgeRx_of_tpError {p : PortIn} (h : p.tpError = true) (s : State) :
    edgeRx p s = .next (s.takeTransportError .receive) :=
  if_pos h

/-- Outside phase TX no byte is offered, so a reset edge leaves the wire as it is. -/
theorem State.takenAtReset_of_phase_ne_tx {s : State} (h : s.phase ≠ .tx) (p : PortIn) : s.takenAtReset p = s := by
  simp [State.takenAtReset, h]

/-- R134, R135: `tp_error` reaches an edge in phases TX and RX only, at a reset edge too. -/
theorem edge_ignores_tpError {s : State} (h : s.phase = .idle ∨ s.phase = .decide) (p : PortIn) (e : Bool) :
    edge { p with tpError := e } s = edge p s := by
  have hne : s.phase ≠ .tx := by rcases h with h | h <;> simp [h]
  simp only [edge, State.takenAtReset_of_phase_ne_tx hne]
  rcases h with h | h <;> simp only [h] <;> rfl

/-- Settles O34: by whether the block is asked for a tick it may start. -/
theorem idleEdgeStartsATick : Obligations.IdleEdgeStartsATick := by
  intro p s hsteady hidle
  rw [edge_of_idle hsteady hidle]
  by_cases hstart : p.tickStart = true ∧ s.fault = false
  · rw [if_pos hstart]
    exact edgeIdle_of_start hstart
  · rw [if_neg hstart]
    exact edgeIdle_of_not_start hstart

/-- Settles O38: phases TX and RX take the fault before anything else; the edges of the other two do not look at it. -/
theorem transportFaultEdge : Obligations.TransportFaultEdge := by
  refine ⟨fun p s hsteady herr hphase => ?_, fun p s hphase => (edge_ignores_tpError hphase p false).symm⟩
  rcases hphase with htx | hrx
  · have hnotRx : s.phase ≠ .rx := by simp [htx]
    rw [edge_of_tx hsteady htx, edgeTx_of_tpError herr, if_neg hnotRx]
    rfl
  · rw [edge_of_rx hsteady hrx, edgeRx_of_tpError herr, if_pos hrx]
    rfl

end Sys2Proof.Machine
end

section
/-! Proofs of the encoding statements: a frame's validity (R83), the decoder of frames (R70, R72), the decoder of
responses and the patterns it reads them under (R66, R85). -/

namespace Sys2Proof

/-! ### Frames -/

theorem sum8_append_singleton (x : List Byte) (b : Byte) : sum8 (x ++ [b]) = sum8 x + b := by simp [sum8]

/-- R83: only the computed checksum brings the byte sum to 0. -/
theorem frameValid_append_iff (x : List Byte) (b : Byte) : frameValid (x ++ [b]) = true ↔ b = cksum x := by
  rw [frameValid, beq_iff_eq, sum8_append_singleton, cksum_eq_neg_sum8, BitVec.add_comm]
  exact add_eq_zero_iff_eq_neg

/-- A valid frame is the built frame of its bytes before the last. -/
theorem eq_buildFrame_of_frameValid {f : List Byte} (hne : f ≠ []) (h : frameValid f = true) :
    f = buildFrame f.dropLast := by
  rw [← List.dropLast_append_getLast hne, frameValid_append_iff] at h
  rw [buildFrame, ← h, List.dropLast_append_getLast hne]

/-- R64: every selector the decoder knows is the last opcode byte of its query state. -/
theorem decodeSelector_eq_ok {sel : Byte} {i : Instr} (h : decodeSelector sel = .ok i) :
    ∃ p, queryPrefix ++ [sel] = rom p ∧ i = Instr.ofState p := by
  unfold decodeSelector at h
  split at h
  · cases h; exact ⟨.vendorCode, by simp_all [rom], rfl⟩
  split at h
  · cases h; exact ⟨.serialNumber, by simp_all [rom], rfl⟩
  split at h
  · cases h; exact ⟨.hardwareRevision, by simp_all [rom], rfl⟩
  split at h
  · cases h; exact ⟨.softwareRevision, by simp_all [rom], rfl⟩
  split at h
  · cases h; exact ⟨.productName, by simp_all [rom], rfl⟩
  split at h
  · cases h; exact ⟨.partNumber, by simp_all [rom], rfl⟩
  · cases h

/-- The opcode bytes the decoder knows are those of `ROM`. -/
theorem decodeOpcode_eq_ok {op : List Byte} {i : Instr} (h : decodeOpcode op = .ok i) :
    ∃ p, op = rom p ∧ i = Instr.ofState p := by
  unfold decodeOpcode at h
  split at h
  · cases h; exact ⟨.haltStream, ‹_›, rfl⟩
  split at h
  · cases h; exact ⟨.getInterval, ‹_›, rfl⟩
  split at h
  · rename_i sel hprefix hsel
    obtain ⟨p, hrom, rfl⟩ := decodeSelector_eq_ok h
    have hop : op = queryPrefix ++ [sel] := by
      rw [← List.take_append_drop 10 op, hsel]
      congr 1
      simpa [beginsWith, queryPrefix] using hprefix
    exact ⟨p, hop.trans hrom, rfl⟩
  · cases h

/-- R72: what decodes to a command is the frame of that command's state. -/
theorem decodeCommand_eq_ok {f : List Byte} {i : Instr} (h : decodeCommand f = .ok i) :
    ∃ p, f = frame p ∧ i = Instr.ofState p := by
  unfold decodeCommand at h
  split at h
  · cases h
  rename_i hne
  split at h
  · split at h
    · rename_i hvalid
      obtain ⟨p, hrom, rfl⟩ := decodeOpcode_eq_ok h
      exact ⟨p, by rw [eq_buildFrame_of_frameValid hne hvalid, hrom, frame], rfl⟩
    · cases h
  · cases h

/-! ### Responses -/

/-- R85 in the words of R66: a pattern matches where its extent is there and begins with its header. -/
theorem Pattern.matches_iff {q : Pattern} {r : List Byte} :
    q.matches r = true ↔ q.extent ≤ r.length ∧ r.take q.header.length = q.header := by
  rcases r with _ | ⟨a, _ | ⟨b, _ | ⟨c, _ | ⟨d, r⟩⟩⟩⟩
  all_goals cases q <;> simp [Pattern.matches, Pattern.extent, Pattern.constraints, Pattern.header]

/-- A well-formed response is read back from its bytes: it begins with its own header and no more specific one. -/
theorem decodeResponse_encode {i : Instr} (hcmd : i.command? = none) (hwf : WellFormed i = true) :
    decodeResponse (encode i) = .ok i := by
  cases i with
  | any1 first payload =>
    simp only [WellFormed, fitsBuffer, onlyAny, Bool.and_eq_true, decide_eq_true_eq, Bool.not_eq_true'] at hwf
    obtain ⟨hlen, ⟨hack1, hnak3⟩, hvack4⟩ := hwf
    have hack3 : beginsWith Pattern.ack3.header (first :: payload) = false := by
      simp_all [beginsWith, Pattern.header]
    simp [decodeResponse, encode, Nat.not_lt.2 hlen, hack1, hnak3, hvack4, hack3]
  | ack1 payload =>
    simp only [WellFormed, fitsBuffer, Bool.and_eq_true, decide_eq_true_eq, Bool.not_eq_true'] at hwf
    obtain ⟨hlen, hnotAck3⟩ := hwf
    have hack3 : beginsWith Pattern.ack3.header (0x06 :: payload) = false := by
      simpa [beginsWith, Pattern.header] using hnotAck3
    simp [decodeResponse, encode, beginsWith, Pattern.header, Nat.not_lt.2 hlen] at hack3 ⊢
    simp [hack3]
  | ack3 payload =>
    have hlen : payload.length + 3 ≤ rxbufDepth := of_decide_eq_true hwf
    simp [decodeResponse, encode, beginsWith, Pattern.header, Nat.not_lt.2 hlen]
  | nak3 payload =>
    have hlen : payload.length + 3 ≤ rxbufDepth := of_decide_eq_true hwf
    simp [decodeResponse, encode, beginsWith, Pattern.header, Nat.not_lt.2 hlen]
  | vack4 payload =>
    have hlen : payload.length + 4 ≤ rxbufDepth := of_decide_eq_true hwf
    simp [decodeResponse, encode, beginsWith, Pattern.header, Nat.not_lt.2 hlen]
  | _ => simp [Instr.command?] at hcmd

theorem length_le_of_decodeResponse {r : List Byte} {i : Instr} (h : decodeResponse r = .ok i) :
    r.length ≤ rxbufDepth := by
  by_contra hlong
  simp [decodeResponse, Nat.not_le.1 hlong] at h

theorem ne_nil_of_decodeResponse {r : List Byte} {i : Instr} (h : decodeResponse r = .ok i) : r ≠ [] := by
  rintro rfl
  exact absurd h (by simp [decodeResponse, beginsWith, Pattern.header])

/-- What decodes is well-formed: it is no longer than the buffer, and every more specific header has been ruled out. -/
theorem wellFormed_of_decodeResponse {r : List Byte} {i : Instr} (h : decodeResponse r = .ok i) :
    WellFormed i = true := by
  have hlen : (encode i).length ≤ rxbufDepth := (encode_of_decodeResponse h).2 ▸ length_le_of_decodeResponse h
  have henc : encode i = r := (encode_of_decodeResponse h).2
  unfold decodeResponse at h
  rw [if_neg (Nat.not_lt.2 (length_le_of_decodeResponse h))] at h
  split at h
  · cases h
    exact decide_eq_true hlen
  rename_i hvack4
  split at h
  · cases h
    exact decide_eq_true hlen
  rename_i hack3
  split at h
  · cases h
    exact decide_eq_true hlen
  rename_i hnak3
  split at h
  · cases h
    rw [← henc] at hack3
    simp_all [WellFormed, fitsBuffer, encode, Pattern.header, beginsWith]
  rename_i hack1
  split at h
  · cases h
  · cases h
    simp_all [WellFormed, fitsBuffer, encode, onlyAny]

/-- Settles O2: a command's frame is read back by the table; a response by its own header and no more specific one. -/
theorem decodeOfEncodeIsTheInstruction : Obligations.DecodeOfEncodeIsTheInstruction := by
  refine fun i hwf => ⟨fun hcmd => ?_, fun hcmd => decodeResponse_encode hcmd hwf⟩
  obtain ⟨p, hp⟩ := Option.isSome_iff_exists.1 hcmd
  rw [ofState_of_command hp, encode_ofState, decodeCommand_frame]

/-- Settles O3: a valid frame is built from its opcode bytes, and the decoder knows those of `ROM` only. -/
theorem onlyTheEightFramesAreCommands : Obligations.OnlyTheEightFramesAreCommands := by
  refine fun f i => ⟨decodeCommand_eq_ok, ?_⟩
  rintro ⟨p, rfl, rfl⟩
  exact decodeCommand_frame p

/-- Settles O4. -/
theorem everyResponseDecodesWithoutLoss : Obligations.EveryResponseDecodesWithoutLoss :=
  fun _ => ⟨fun ⟨hne, hlen⟩ => decodeResponse_total hne hlen,
    fun _ h => ⟨ne_nil_of_decodeResponse h, length_le_of_decodeResponse h, wellFormed_of_decodeResponse h,
      (encode_of_decodeResponse h).2⟩⟩

/-- Settles O5: by the instruction the response decodes to, whose bytes show which headers it begins with. -/
theorem responsesAreReadUnderTheMostSpecificPattern : Obligations.ResponsesAreReadUnderTheMostSpecificPattern := by
  intro r i h
  obtain ⟨hcmd, rfl⟩ := encode_of_decodeResponse h
  have hwf := wellFormed_of_decodeResponse h
  simp only [Pattern.matches_iff]
  cases i with
  | any1 first payload =>
    simp_all [WellFormed, onlyAny, beginsWith, encode, Pattern.header, Pattern.extent]
    tauto
  | ack1 payload =>
    simp_all [WellFormed, beginsWith, encode, Pattern.header, Pattern.extent]
  | ack3 payload => simp [encode, Pattern.header, Pattern.extent]
  | nak3 payload => simp [encode, Pattern.header, Pattern.extent]
  | vack4 payload => simp [encode, Pattern.header, Pattern.extent]
  | _ => simp [Instr.command?] at hcmd

/-- Settles O9: the last byte is the two's complement of the sum of the others. -/
theorem onlyTheComputedChecksumMakesAFrameValid : Obligations.OnlyTheComputedChecksumMakesAFrameValid :=
  frameValid_append_iff

/-- Settles O1: ten rows of the table, each small enough to evaluate. -/
theorem tableWordsDecode : Obligations.TableWordsDecode := by
  unfold Obligations.TableWordsDecode
  decide

end Sys2Proof
end

section
/-! Proofs of the classification statements: the headers a response is judged by (R86, R88, R89), the flags (R90) and the
transition table (R23). -/

namespace Sys2Proof.Machine

/-! ### The length test and the two headers -/

theorem one_le_minLen (cfg : Config) (p : ProtoState) : 1 ≤ minLen cfg p := by
  obtain ⟨v, policy⟩ := cfg
  cases policy <;> cases p <;> cases v <;> decide

/-- R89: a response that passes the length test is long enough for the ack pattern. -/
theorem ackPat_extent_le_minLen (cfg : Config) (p : ProtoState) : (ackPat cfg p).extent ≤ minLen cfg p := by
  obtain ⟨v, policy⟩ := cfg
  cases policy <;> cases p <;> cases v <;> decide

/-- R89: and for the nak pattern, where the state has one. -/
theorem three_le_minLen {p : ProtoState} (h : (nakPat p).isSome = true) (cfg : Config) : 3 ≤ minLen cfg p := by
  obtain ⟨v, policy⟩ := cfg
  cases p with
  | haltStream => simp [nakPat] at h
  | getInterval => simp [nakPat] at h
  | _ => cases policy <;> cases v <;> decide

theorem ackPat_matches_iff {cfg : Config} {p : ProtoState} {r : List Byte} (hlen : minLen cfg p ≤ r.length) :
    (ackPat cfg p).matches r = true ↔ r.take (ackPat cfg p).header.length = (ackPat cfg p).header := by
  rw [Pattern.matches_iff, and_iff_right ((ackPat_extent_le_minLen cfg p).trans hlen)]

/-- The one nak pattern there is (R86). -/
theorem nakPat_eq_some {p : ProtoState} {q : Pattern} (h : nakPat p = some q) : q = .nak3 := by
  cases p <;> simp [nakPat] at h <;> exact h.symm

theorem nakMatches_iff {cfg : Config} {p : ProtoState} {r : List Byte} (hlen : minLen cfg p ≤ r.length) :
    nakMatches p r = true ↔ (nakPat p).isSome = true ∧ r.take 3 = [0x15, 0x0A, 0x01] := by
  unfold nakMatches
  cases hq : nakPat p with
  | none => simp
  | some q =>
    obtain rfl := nakPat_eq_some hq
    have hextent : Pattern.nak3.extent ≤ r.length := (three_le_minLen (by simp [hq]) cfg).trans hlen
    simp only [Pattern.matches_iff, Option.isSome_some, true_and, and_iff_right hextent]
    rfl

/-- R89 (2): the ack header of a state with a nak pattern begins with another byte than the nak header. -/
theorem not_ackHeader_of_nakHeader {p : ProtoState} {r : List Byte} (hnak : (nakPat p).isSome = true)
    (h : r.take 3 = [0x15, 0x0A, 0x01]) (cfg : Config) :
    r.take (ackPat cfg p).header.length ≠ (ackPat cfg p).header := by
  obtain ⟨v, policy⟩ := cfg
  have hhead : r.head? = some 0x15 := by simpa [List.head?_take] using congrArg List.head? h
  intro hack
  have hhead' := congrArg List.head? hack
  cases p with
  | haltStream => simp [nakPat] at hnak
  | getInterval => simp [nakPat] at hnak
  | vendorCode => cases v <;> simp [ackPat, Pattern.header, List.head?_take, hhead] at hhead'
  | _ => simp [ackPat, Pattern.header, List.head?_take, hhead] at hhead'

/-! ### The four results -/

/-- R88 by the headers of R66. -/
theorem classify_eq (cfg : Config) (p : ProtoState) (r : List Byte) :
    classify cfg p r =
      if r.length < minLen cfg p then .incomplete
      else if r.take (ackPat cfg p).header.length = (ackPat cfg p).header then .ack
      else if (nakPat p).isSome = true ∧ r.take 3 = [0x15, 0x0A, 0x01] then .nak
      else .unrecognized := by
  unfold classify
  by_cases hlen : r.length < minLen cfg p
  · simp only [if_pos hlen]
  · simp only [if_neg hlen, ackPat_matches_iff (Nat.not_lt.1 hlen), nakMatches_iff (Nat.not_lt.1 hlen)]

theorem classify_eq_incomplete_iff {cfg : Config} {p : ProtoState} {r : List Byte} :
    classify cfg p r = .incomplete ↔ r.length < minLen cfg p := by
  rw [classify_eq]
  grind

theorem classify_eq_ack_iff {cfg : Config} {p : ProtoState} {r : List Byte} :
    classify cfg p r = .ack ↔
      minLen cfg p ≤ r.length ∧ r.take (ackPat cfg p).header.length = (ackPat cfg p).header := by
  rw [classify_eq]
  grind

theorem classify_eq_nak_iff {cfg : Config} {p : ProtoState} {r : List Byte} :
    classify cfg p r = .nak ↔
      minLen cfg p ≤ r.length ∧ (nakPat p).isSome = true ∧ r.take 3 = [0x15, 0x0A, 0x01] := by
  rw [classify_eq]
  constructor
  · grind
  · rintro ⟨hlen, hnak, hheader⟩
    rw [if_neg (Nat.not_lt.2 hlen), if_neg (not_ackHeader_of_nakHeader hnak hheader cfg), if_pos ⟨hnak, hheader⟩]

theorem classify_eq_unrecognized_iff {cfg : Config} {p : ProtoState} {r : List Byte} :
    classify cfg p r = .unrecognized ↔
      minLen cfg p ≤ r.length ∧ r.take (ackPat cfg p).header.length ≠ (ackPat cfg p).header ∧
        ¬((nakPat p).isSome = true ∧ r.take 3 = [0x15, 0x0A, 0x01]) := by
  rw [classify_eq]
  grind

/-- R88: no bytes, no class but Incomplete. -/
theorem classify_nil (cfg : Config) (p : ProtoState) : classify cfg p [] = .incomplete :=
  classify_eq_incomplete_iff.2 (one_le_minLen cfg p)

/-- R101: whatever arrives is an Ack of HaltStream. -/
theorem classify_haltStream (cfg : Config) (r : List Byte) :
    classify cfg .haltStream r = if r = [] then .incomplete else .ack := by
  split
  · simp_all [classify_nil]
  · rename_i hne
    exact classify_eq_ack_iff.2 ⟨minLen_haltStream cfg ▸ List.length_pos_iff.2 hne, rfl⟩

/-- R102: GetInterval looks at the first byte. -/
theorem classify_getInterval (cfg : Config) (r : List Byte) :
    classify cfg .getInterval r =
      if r.length < minLen cfg .getInterval then .incomplete
      else if r.head? = some 0x06 then .ack else .unrecognized := by
  rw [classify_eq]
  cases r <;> simp [ackPat, Pattern.header, nakPat]

/-- A state with a nak pattern judges by its ack header and the Nak header. -/
theorem classify_eq_judged {p : ProtoState} (h : nakPat p = some .nak3) (cfg : Config) (r : List Byte) :
    classify cfg p r = judged (minLen cfg p) (ackPat cfg p).header r := by
  rw [classify_eq, judged]
  simp [h]

/-- Settles O10. -/
theorem classificationFollowsLengthAndHeaders : Obligations.ClassificationFollowsLengthAndHeaders :=
  fun _ _ _ => ⟨classify_eq_incomplete_iff, classify_eq_ack_iff, classify_eq_nak_iff, classify_eq_unrecognized_iff⟩

theorem ackPat_header_length_le (cfg : Config) (p : ProtoState) : (ackPat cfg p).header.length ≤ 4 := by
  cases ackPat cfg p <;> decide

/-- Settles O11: every header lies within the first four bytes. -/
theorem bytesPastTheHeaderNeverMatter : Obligations.BytesPastTheHeaderNeverMatter := by
  intro cfg p r r' hlen hfour
  have htake (n : Nat) (hn : n ≤ 4) : r.take n = r'.take n := by
    simpa [List.take_take, Nat.min_eq_left hn] using congrArg (List.take n) hfour
  rw [classify_eq, classify_eq, hlen, htake _ (ackPat_header_length_le cfg p), htake 3 (by decide)]

/-- Settles O12: the two headers differ in the first byte, and the first two states have no nak pattern. -/
theorem impossibleClassificationsNeverOccur : Obligations.ImpossibleClassificationsNeverOccur := by
  refine fun cfg r => ⟨?_, classify_haltStream cfg r, fun h => ?_⟩
  · rintro p q hq ⟨hack, hnak⟩
    obtain rfl := nakPat_eq_some hq
    exact not_ackHeader_of_nakHeader (by simp [hq]) (Pattern.matches_iff.1 hnak).2 cfg (Pattern.matches_iff.1 hack).2
  · obtain ⟨-, hnak, -⟩ := classify_eq_nak_iff.1 h
    simp [nakPat] at hnak

/-! ### Flags and transition -/

/-- Settles O14: outside HaltStream the strict policy asks for the whole length. -/
theorem shortReadsAndMismatchesAreReported : Obligations.ShortReadsAndMismatchesAreReported := by
  refine fun cfg p r => ⟨decide_eq_true_iff, decide_eq_true_iff, fun hstrict hp hshort => ?_, classify_nil cfg p⟩
  exact classify_eq_incomplete_iff.2 (minLen_of_fullLength hstrict hp ▸ of_decide_eq_true hshort)

/-- Settles O15: the table has finitely many cells. -/
theorem transitionTable : Obligations.TransitionTable := by
  refine ⟨fun c => by cases c <;> rfl, fun c => by cases c <;> rfl, fun c => by cases c <;> rfl, fun p q h => ?_⟩
  simp only [List.mem_cons, Prod.mk.injEq, List.not_mem_nil, or_false] at h
  rcases h with ⟨rfl, rfl⟩ | ⟨rfl, rfl⟩ | ⟨rfl, rfl⟩ | ⟨rfl, rfl⟩ | ⟨rfl, rfl⟩ <;> exact ⟨rfl, rfl, rfl, rfl⟩

/-- R117: one transition stays, goes one state forward or goes to HaltStream. -/
theorem next_code (p : ProtoState) (c : Classification) :
    next p c = p ∨ (next p c).code.toNat = p.code.toNat + 1 ∨ next p c = .haltStream := by
  cases p <;> cases c <;> decide

/-- R23, R171: from another state only a Nak at a query state leads to HaltStream. -/
theorem nak_of_next_eq_haltStream {p : ProtoState} {c : Classification} (hp : p ≠ .haltStream)
    (h : next p c = .haltStream) : c = .nak ∧ isQuery p = true := by
  cases p <;> cases c <;> simp_all [next, getIntervalNext, vendorCodeNext, queryNext, isQuery]

end Sys2Proof.Machine
end

section
/-! The bytes a frame is sent as (R130, R131): their running sum, the byte offered at `TXIDX`, and the sum of a whole
frame. -/

namespace Sys2Proof

theorem sum8_take_succ {x : List Byte} {k : Nat} {b : Byte} (h : x[k]? = some b) :
    sum8 (x.take (k + 1)) = sum8 (x.take k) + b := by
  rw [List.take_add_one, h, Option.toList_some, sum8_append_singleton]

/-- R131: with the checksum byte the sum is 0. -/
theorem sum8_frame (p : ProtoState) : sum8 (frame p) = 0 := by
  simpa [frameValid, frame, buildFrame] using (frameValid_append_iff (rom p) _).2 rfl

theorem take_frame_framelen (p : ProtoState) : (frame p).take (framelen p) = frame p :=
  List.take_of_length_le (frame_length p).le

theorem frame_getElem?_oplen (p : ProtoState) : (frame p)[oplen p]? = some (cksum (rom p)) := by
  simp [frame, buildFrame, ← rom_length]

theorem take_frame_oplen (p : ProtoState) : (frame p).take (oplen p) = rom p := by
  simp [frame, buildFrame, ← rom_length]

theorem frame_getElem?_lt {p : ProtoState} {k : Nat} (h : k < oplen p) : (frame p)[k]? = (rom p)[k]? := by
  rw [frame, buildFrame, List.getElem?_append_left (by rwa [rom_length])]

namespace Machine

/-- R130: where `CKACC` is the sum of the bytes handed over, the byte offered is the frame's byte at `TXIDX`, the
checksum byte included. -/
theorem State.txByte_of_sum {s : State} (hidx : s.txidx.toNat ≤ oplen s.state)
    (hsum : s.ckacc = sum8 ((frame s.state).take s.txidx.toNat)) :
    ∃ b, (frame s.state)[s.txidx.toNat]? = some b ∧ s.txByte = .ok b := by
  rcases hidx.eq_or_lt with hlast | hlt
  · refine ⟨_, by rw [hlast, frame_getElem?_oplen], ?_⟩
    rw [State.txByte, if_pos hlast, hsum, hlast, take_frame_oplen, cksum_eq_neg_sum8, ← BitVec.zero_sub]
    rfl
  · have hrom : s.txidx.toNat < (rom s.state).length := by rwa [rom_length]
    refine ⟨(rom s.state)[s.txidx.toNat], by rw [frame_getElem?_lt hlt, List.getElem?_eq_getElem hrom], ?_⟩
    rw [State.txByte, if_neg hlt.ne, romRead, List.getElem?_eq_getElem hrom]

end Machine

end Sys2Proof
end

section
/-! Proofs of the invariant statements: every operation keeps the registers' invariant, so every step does (R27 to R29,
R121, R130, R131, R133), and what follows of a step from a state that has it. -/

namespace Sys2Proof.Machine

/-! ### The receive buffer -/

/-- The part of the invariant that speaks of `RXBUF` and of `RXCNT`: the first `n` cells hold bytes. -/
structure Memory.Filled (m : Memory) (n : Nat) : Prop where
  wf : Memory.wf m
  fits : n ≤ rxbufDepth
  isSome : ∀ i < n, (m.read i).isSome = true

theorem Memory.Filled.zero {m : Memory} (h : m.wf) : m.Filled 0 :=
  ⟨h, Nat.zero_le _, fun i hi => absurd hi (Nat.not_lt_zero i)⟩

theorem State.Inv.filled {s : State} (h : s.Inv) : s.rxbuf.Filled s.rxcnt.toNat := ⟨h.bufWf, h.countFits, h.bufFilled⟩

/-- Stored bytes that fit keep the first cells filled. -/
theorem Memory.Filled.writeBytes {m : Memory} {n : Nat} {bs : List Byte} (h : m.Filled n)
    (hfit : n + bs.length ≤ rxbufDepth) : (m.writeBytes n bs).Filled (n + bs.length) := by
  refine ⟨Memory.writeBytes_keeps_wf bs hfit h.wf, hfit, fun i hi => ?_⟩
  rcases Nat.lt_or_ge i n with hlt | hge
  · rw [Memory.read_writeBytes_outside _ _ _ (.inl hlt)]
    exact h.isSome i hlt
  · obtain ⟨j, rfl⟩ := Nat.exists_eq_add_of_le hge
    have hj : j < bs.length := by omega
    rw [Memory.read_writeBytes_inside _ _ _ hj, List.getElem?_eq_getElem hj, Option.isSome_some]

theorem State.accept_rxcnt_toNat {s : State} {bs : List Byte} (hfit : s.rxcnt.toNat + bs.length ≤ rxbufDepth) :
    (s.accept bs).rxcnt.toNat = s.rxcnt.toNat + bs.length := by
  have hdepth : rxbufDepth = 23 := rfl
  simp only [State.accept_rxcnt, BitVec.toNat_add, BitVec.toNat_ofNat]
  omega

theorem State.filled_accept {s : State} {bs : List Byte} (h : s.rxbuf.Filled s.rxcnt.toNat)
    (hfit : s.rxcnt.toNat + bs.length ≤ rxbufDepth) : (s.accept bs).rxbuf.Filled (s.accept bs).rxcnt.toNat := by
  rw [State.accept_rxcnt_toNat hfit]
  exact h.writeBytes hfit

/-- What the open receive takes fits the buffer. -/
theorem State.take_room_fits {s : State} (h : s.rxcnt.toNat ≤ respLen s.cfg s.state) (bs : List Byte) :
    s.rxcnt.toNat + (bs.take s.room).length ≤ rxbufDepth := by
  have hlen := List.length_take_le s.room bs
  have hbound := respLen_le s.cfg s.state
  unfold State.room at hlen ⊢
  omega

/-! ### Operations that leave the block idle -/

theorem State.inv_of_idle {s : State} (hbuf : s.rxbuf.Filled s.rxcnt.toNat) (hidle : s.phase = .idle)
    (hclear : s.fault = false → s.fphase = .transmit) : s.Inv where
  bufWf := hbuf.wf
  countFits := hbuf.fits
  bufFilled := hbuf.isSome
  sending h := by simp [hidle] at h
  sent h := by simp [hidle] at h
  receiving h := by simp [hidle] at h
  received h := by simp [hidle] at h
  faultStops _ := hidle
  fphaseClear := hclear

theorem State.takeTransportError_inv {s : State} (hbuf : s.rxbuf.Filled s.rxcnt.toNat) (ph : FaultPhase) :
    (s.takeTransportError ph).Inv := State.inv_of_idle hbuf rfl (by simp)

theorem State.decideTick_inv {s : State} (hbuf : s.rxbuf.Filled s.rxcnt.toNat)
    (hclear : s.fault = false → s.fphase = .transmit) (p : ProtoState) (r : List Byte) : (s.decideTick p r).Inv :=
  State.inv_of_idle hbuf rfl hclear

theorem State.hardReset_inv {s : State} (hwf : s.rxbuf.wf) (cfg : Config) : (s.hardReset cfg).Inv :=
  State.inv_of_idle (.zero hwf) rfl (fun _ => rfl)

theorem State.Inv.hold {s : State} (h : s.Inv) : s.hold.Inv := by
  obtain ⟨h1, h2, h3, h4, h5, h6, h7, h8, h9⟩ := h
  exact ⟨h1, h2, h3, h4, h5, h6, h7, h8, h9⟩

theorem State.Inv.consume {s : State} (h : s.Inv) : s.consume.Inv := by
  obtain ⟨h1, h2, h3, h4, h5, h6, h7, h8, h9⟩ := h
  exact ⟨h1, h2, h3, h4, h5, h6, h7, h8, h9⟩

/-- R126: a tick ends idle, its answer in the buffer. -/
theorem State.Inv.tick {s : State} (h : s.Inv) (p : ProtoState) (tx : TxAnswer) (rx : RxAnswer) :
    (s.tick p tx rx).Inv := by
  have hanswer (bs : List Byte) (hlen : bs.length ≤ respLen s.cfg p) :
      (s.rxbuf.writeBytes 0 bs).Filled (0 + BitVec.ofNat 5 bs.length).toNat := by
    have hfit := hlen.trans (respLen_le s.cfg p)
    exact State.filled_accept (s := s.beginTick) (.zero h.bufWf) (by simpa using hfit)
  cases tx with
  | error k => exact State.takeTransportError_inv (.zero h.bufWf) _
  | ok =>
    cases rx with
    | error got =>
      exact State.takeTransportError_inv
        (hanswer _ ((List.length_take_le _ _).trans (Nat.sub_le _ _))) _
    | ok r => exact State.inv_of_idle (hanswer (r.take _) (List.length_take_le _ _)) rfl h.fphaseClear

/-- R133: an open receive or a finished one has no more than the length asked for. -/
theorem State.Inv.count_le {s : State} (h : s.Inv) (hp : s.phase = .rx ∨ s.phase = .decide) :
    s.rxcnt.toNat ≤ respLen s.cfg s.state :=
  hp.elim (fun hrx => (h.receiving hrx).le) h.received

/-- R121: a block that runs a tick is not faulted. -/
theorem State.Inv.fault_eq_false {s : State} (h : s.Inv) (hp : s.phase ≠ .idle) : s.fault = false :=
  Bool.eq_false_iff.2 fun hf => hp (h.faultStops hf)

/-- A response ends idle, or is not taken. -/
theorem State.Inv.respond {s t : State} (h : s.Inv) {bs : List Byte} (ht : respond bs s = .next t) : t.Inv := by
  rcases respond_cases ht with ⟨hrx, r, -, ho⟩ | ⟨-, e, -, ho⟩ | ⟨-, ho⟩
  · cases ho
    exact State.decideTick_inv (State.filled_accept h.consume.filled (State.take_room_fits (h.count_le (.inl hrx)) bs))
      h.fphaseClear _ _
  · cases ho
  · cases ho
    exact h.consume.hold

/-! ### Clock edges -/

theorem quietPorts_steady (cfg : Config) : (quietPorts cfg).steady cfg := by
  obtain ⟨v, policy⟩ := cfg
  cases v <;> cases policy <;> exact ⟨rfl, rfl⟩

theorem State.Inv.beginTick {s : State} (h : s.Inv) (hf : s.fault = false) : s.beginTick.Inv where
  bufWf := h.bufWf
  countFits := Nat.zero_le _
  bufFilled := (Memory.Filled.zero h.bufWf).isSome
  sending _ := ⟨Nat.zero_le _, rfl, rfl⟩
  sent hp := by simp at hp
  receiving hp := by simp at hp
  received hp := by simp at hp
  faultStops ht := by simp [hf] at ht
  fphaseClear := h.fphaseClear

/-- `TXIDX` has room for the index of every checksum byte. -/
theorem State.txidx_succ_toNat {s : State} (h : s.txidx.toNat < oplen s.state) :
    (s.txidx + 1).toNat = s.txidx.toNat + 1 := by
  have hbound := oplen_le s.state
  rw [BitVec.toNat_add]
  exact Nat.mod_eq_of_lt (by simp; omega)

/-- R130, R131: the byte handed over keeps `CKACC` the running sum, which the checksum byte brings to 0. -/
theorem State.Inv.transferByte {s : State} (h : s.Inv) (hp : s.phase = .tx) {b : Byte} (hb : s.txByte = .ok b) :
    (s.transferByte b).Inv := by
  obtain ⟨hidx, hsum, hcnt⟩ := h.sending hp
  obtain ⟨b', hframe, hb'⟩ := State.txByte_of_sum hidx hsum
  obtain rfl : b = b' := by simpa [hb] using hb'
  have hsucc := sum8_take_succ hframe
  rw [← hsum] at hsucc
  have hf := h.fault_eq_false (by simp [hp])
  rcases s.transferByte_cases b with ⟨hlast, ht⟩ | ⟨hne, ht⟩ <;> rw [ht]
  · exact {
      bufWf := h.bufWf
      countFits := h.countFits
      bufFilled := h.bufFilled
      sending := fun hp => by simp at hp
      sent := fun _ => ⟨hlast, by
        rw [hlast, ← framelen, take_frame_framelen, sum8_frame] at hsucc
        exact hsucc.symm⟩
      receiving := fun _ => by
        have := four_le_respLen s.cfg s.state
        simp [hcnt]
        omega
      received := fun hp => by simp at hp
      faultStops := fun ht => by simp [hf] at ht
      fphaseClear := h.fphaseClear }
  · have hnext := State.txidx_succ_toNat (Nat.lt_of_le_of_ne hidx hne)
    exact {
      bufWf := h.bufWf
      countFits := h.countFits
      bufFilled := h.bufFilled
      sending := fun _ => ⟨by simp only [hnext]; omega, by simp only [hnext]; exact hsucc.symm, hcnt⟩
      sent := fun h => by simp [hp] at h
      receiving := fun h => by simp [hp] at h
      received := fun h => by simp [hp] at h
      faultStops := fun ht => by simp [hf] at ht
      fphaseClear := h.fphaseClear }

/-- The byte presented at an edge joins the buffer only while fewer than the length asked for are in. -/
theorem State.acceptOffered_cases (p : PortIn) (s : State) :
    (p.rxValid = true ∧ s.rxcnt.toNat < respLen s.cfg s.state ∧ s.acceptOffered p = s.accept [p.rxData]) ∨
    (¬(p.rxValid = true ∧ s.rxcnt.toNat < respLen s.cfg s.state) ∧ s.acceptOffered p = s) := by
  unfold State.acceptOffered
  by_cases h : p.rxValid = true ∧ s.rxcnt.toNat < respLen s.cfg s.state
  · exact .inl ⟨h.1, h.2, if_pos (by simpa using h)⟩
  · exact .inr ⟨h, if_neg (by simpa using h)⟩

/-- R133: the receive ends or, where it stays open, still wants a byte. -/
theorem State.endReceive_cases (done : Bool) (s : State) :
    ((done = true ∨ s.rxcnt.toNat = respLen s.cfg s.state) ∧
      s.endReceive done = { s with phase := .decide, report := none }) ∨
    (done = false ∧ s.rxcnt.toNat ≠ respLen s.cfg s.state ∧ s.endReceive done = s.hold) := by
  unfold State.endReceive
  by_cases h : done = true ∨ s.rxcnt.toNat = respLen s.cfg s.state
  · exact .inl ⟨h, if_pos (by simpa using h)⟩
  · rw [not_or, Bool.not_eq_true] at h
    exact .inr ⟨h.1, h.2, if_neg (by simp [h])⟩

/-- What the invariant says of phases RX and DECIDE but for the byte an open receive still wants. -/
theorem State.endReceive_inv {s : State} (hbuf : s.rxbuf.Filled s.rxcnt.toNat) (hp : s.phase = .rx)
    (hsent : s.txidx.toNat = oplen s.state ∧ s.ckacc = 0) (hcnt : s.rxcnt.toNat ≤ respLen s.cfg s.state)
    (hf : s.fault = false) (hclear : s.fphase = .transmit) (done : Bool) : (s.endReceive done).Inv := by
  rcases s.endReceive_cases done with ⟨-, ht⟩ | ⟨-, hne, ht⟩ <;> rw [ht]
  · exact ⟨hbuf.wf, hbuf.fits, hbuf.isSome, fun h => by simp at h, fun _ => hsent, fun h => by simp at h,
      fun _ => hcnt, fun h => by simp [hf] at h, fun _ => hclear⟩
  · exact State.Inv.hold ⟨hbuf.wf, hbuf.fits, hbuf.isSome, fun h => by simp [hp] at h, fun _ => hsent,
      fun _ => Nat.lt_of_le_of_ne hcnt hne, fun h => by simp [hp] at h, fun h => by simp [hf] at h, fun _ => hclear⟩

/-- R132, R133: an edge of an open receive. -/
theorem State.Inv.receiveEdge {s : State} (h : s.Inv) (hp : s.phase = .rx) (p : PortIn) :
    ((s.acceptOffered p).endReceive p.rxDone).Inv := by
  have hf := h.fault_eq_false (by simp [hp])
  have hbound := respLen_le s.cfg s.state
  rcases s.acceptOffered_cases p with ⟨-, hlt, ht⟩ | ⟨-, ht⟩ <;> rw [ht]
  · have hfit : s.rxcnt.toNat + [p.rxData].length ≤ rxbufDepth := by simp; omega
    exact State.endReceive_inv (State.filled_accept h.filled hfit) hp (h.sent (.inl hp))
      (by rw [State.accept_rxcnt_toNat hfit]; simpa using hlt) hf (h.fphaseClear hf) _
  · exact State.endReceive_inv h.filled hp (h.sent (.inl hp)) (h.receiving hp).le hf (h.fphaseClear hf) _

@[simp] theorem State.takenAtReset_rxbuf (p : PortIn) (s : State) : (s.takenAtReset p).rxbuf = s.rxbuf := by
  rcases s.takenAtReset_cases p with h | ⟨b, h⟩ <;> rw [h]

/-- One rising edge keeps the invariant, whatever the ports say. -/
theorem State.Inv.edge {s t : State} (h : s.Inv) {p : PortIn} (ht : edge p s = .next t) : t.Inv := by
  rcases edge_cases ht with ⟨-, rfl⟩ | ⟨-, -, ⟨-, he⟩ | ⟨htx, he⟩ | ⟨hrx, he⟩ | ⟨-, he⟩⟩
  · exact State.hardReset_inv (by simpa using h.bufWf) _
  · rcases edgeIdle_cases he with ⟨-, hf, rfl⟩ | rfl
    · exact h.beginTick hf
    · exact h.hold
  · rcases edgeTx_cases he with ⟨-, rfl⟩ | ⟨-, -, b, hb, rfl⟩ | ⟨-, -, rfl⟩
    · exact State.takeTransportError_inv h.filled _
    · exact h.transferByte htx hb
    · exact h.hold
  · rcases edgeRx_cases he with ⟨-, rfl⟩ | ⟨-, rfl⟩
    · exact State.takeTransportError_inv h.filled _
    · exact h.receiveEdge hrx p
  · obtain ⟨r, -, rfl⟩ := edgeDecide_cases he
    exact State.decideTick_inv h.filled h.fphaseClear _ _

/-! ### Steps -/

theorem State.Inv.step {s t : State} (h : s.Inv) (ht : step s = .next t) : t.Inv := by
  rcases step_cases ht with ⟨tx, rx, _, -, -, ho⟩ | ⟨_, _, _, -, -, ho⟩ | ⟨_, _, -, ho⟩ | ⟨p, _, -, ho⟩ | ⟨-, ho⟩
  · cases ho
    exact h.consume.tick _ tx rx
  · cases ho
    exact h.consume.hold
  · exact h.respond ho.symm
  · exact h.consume.edge ho.symm
  · exact h.edge ho.symm

/-- Settles O46. -/
theorem invariantHoldsAtReset : Obligations.InvariantHoldsAtReset :=
  State.inv_of_idle (.zero (by decide)) rfl (fun _ => rfl)

/-- Settles O47: by what a step can do, each operation keeping the invariant. -/
theorem everyStepKeepsTheInvariant : Obligations.EveryStepKeepsTheInvariant := fun _ _ h ht => h.step ht

/-- Settles O45. -/
theorem resetValues : Obligations.ResetValues := ⟨rfl, rfl, rfl, rfl, rfl, rfl, rfl, rfl, rfl⟩

/-- Settles O49: the invariant after the step says it. -/
theorem checksumSelfCheckNeverFails : Obligations.ChecksumSelfCheckNeverFails := by
  intro s t h ht hp
  obtain ⟨hidx, hsum⟩ := (h.step ht).sent hp
  exact ⟨by simp [State.ports, hsum], hidx⟩

end Sys2Proof.Machine
end

section
/-! Proofs of the statements about every step: where STATE can go (R21, R23, R117, R171), when a step stops (R89, U1, U4),
what a fault does (R24, R139, R143, R144) and what a read of RXBUF answers (R29, R40). -/

namespace Sys2Proof.Machine

/-! ### Where STATE can go -/

/-- What a completed tick leaves: STATE by the transition, the report that names both states, an idle block. -/
def CompletedFrom (s t : State) : Prop :=
  ∃ r, t.state = next s.state (classify s.cfg s.state r) ∧ t.report = some (tickReport s.cfg s.state r) ∧
    t.phase = .idle ∧ t.fault = s.fault

theorem tick_state_cases (s : State) (tx : TxAnswer) (rx : RxAnswer) :
    (s.tick s.state tx rx).state = s.state ∨ CompletedFrom s (s.tick s.state tx rx) := by
  cases tx with
  | error k => exact .inl rfl
  | ok =>
    cases rx with
    | error got => exact .inl rfl
    | ok r => exact .inr ⟨_, rfl, rfl, rfl, rfl⟩

theorem respond_state_cases {bs : List Byte} {s t : State} (h : respond bs s = .next t) :
    t.state = s.state ∨ CompletedFrom s t := by
  rcases respond_cases h with ⟨-, r, -, ho⟩ | ⟨-, e, -, ho⟩ | ⟨-, ho⟩ <;> cases ho
  · exact .inr ⟨r, rfl, rfl, rfl, rfl⟩
  · exact .inl rfl

@[simp] theorem State.transferByte_state (b : Byte) (s : State) : (s.transferByte b).state = s.state := by
  rcases s.transferByte_cases b with ⟨-, h⟩ | ⟨-, h⟩ <;> rw [h]

@[simp] theorem State.transferByte_fault (b : Byte) (s : State) : (s.transferByte b).fault = s.fault := by
  rcases s.transferByte_cases b with ⟨-, h⟩ | ⟨-, h⟩ <;> rw [h]

@[simp] theorem State.acceptOffered_state (p : PortIn) (s : State) : (s.acceptOffered p).state = s.state := by
  rcases s.acceptOffered_cases p with ⟨-, -, h⟩ | ⟨-, h⟩ <;> rw [h]; rfl

@[simp] theorem State.acceptOffered_fault (p : PortIn) (s : State) : (s.acceptOffered p).fault = s.fault := by
  rcases s.acceptOffered_cases p with ⟨-, -, h⟩ | ⟨-, h⟩ <;> rw [h]; rfl

@[simp] theorem State.endReceive_state (d : Bool) (s : State) : (s.endReceive d).state = s.state := by
  rcases s.endReceive_cases d with ⟨-, h⟩ | ⟨-, -, h⟩ <;> rw [h]; rfl

@[simp] theorem State.endReceive_fault (d : Bool) (s : State) : (s.endReceive d).fault = s.fault := by
  rcases s.endReceive_cases d with ⟨-, h⟩ | ⟨-, -, h⟩ <;> rw [h]; rfl

theorem edge_state_cases {p : PortIn} {s t : State} (h : edge p s = .next t) :
    t.state = s.state ∨ (p.rst = true ∧ t.state = .haltStream) ∨ CompletedFrom s t := by
  rcases edge_cases h with ⟨hrst, rfl⟩ | ⟨-, -, ⟨-, he⟩ | ⟨-, he⟩ | ⟨-, he⟩ | ⟨-, he⟩⟩
  · exact .inr (.inl ⟨hrst, rfl⟩)
  · rcases edgeIdle_cases he with ⟨-, -, rfl⟩ | rfl <;> exact .inl rfl
  · rcases edgeTx_cases he with ⟨-, rfl⟩ | ⟨-, -, b, -, rfl⟩ | ⟨-, -, rfl⟩
    · exact .inl rfl
    · exact .inl (by simp)
    · exact .inl rfl
  · rcases edgeRx_cases he with ⟨-, rfl⟩ | ⟨-, rfl⟩
    · exact .inl rfl
    · exact .inl (by simp)
  · obtain ⟨r, -, rfl⟩ := edgeDecide_cases he
    exact .inr (.inr ⟨r, rfl, rfl, rfl, rfl⟩)

/-- R21, R125: STATE is written by a completed tick or by a reset. -/
theorem step_state_cases {s t : State} (h : step s = .next t) :
    t.state = s.state ∨ (s.resetNext ∧ t.state = .haltStream) ∨ CompletedFrom s t := by
  rcases step_cases h with ⟨tx, rx, _, -, -, ho⟩ | ⟨_, _, _, -, -, ho⟩ | ⟨_, _, -, ho⟩ | ⟨p, rest, hin, ho⟩ | ⟨-, ho⟩
  · cases ho
    exact (tick_state_cases s.consume tx rx).imp_right .inr
  · cases ho
    exact .inl rfl
  · exact (respond_state_cases ho.symm).imp_right .inr
  · rcases edge_state_cases ho.symm with hs | ⟨hrst, hs⟩ | hs
    · exact .inl hs
    · exact .inr (.inl ⟨⟨p, rest, hin, hrst⟩, hs⟩)
    · exact .inr (.inr hs)
  · rcases edge_state_cases ho.symm with hs | ⟨hrst, -⟩ | hs
    · exact .inl hs
    · simp [quietPorts] at hrst
    · exact .inr (.inr hs)

/-- Settles O16: one transition moves at most one state forward. -/
theorem noStepSkipsAState : Obligations.NoStepSkipsAState := by
  intro s t h
  rcases step_state_cases h with hs | ⟨-, hs⟩ | ⟨r, hs, -⟩
  · exact .inl hs
  · exact .inr (.inr hs)
  · rw [hs]
    exact next_code s.state _

/-- Settles O17: a transition leads back on a Nak at a query state only. -/
theorem goingBackTakesANakOrAReset : Obligations.GoingBackTakesANakOrAReset := by
  intro s t h hs ht
  rcases step_state_cases h with hsame | ⟨hreset, -⟩ | ⟨r, hnext, hrep, -, -⟩
  · exact absurd (hsame.symm.trans ht) hs
  · exact .inl hreset
  · have hback := hnext.symm.trans ht
    obtain ⟨hnak, hquery⟩ := nak_of_next_eq_haltStream hs hback
    exact .inr ⟨(isQuery_iff _).1 hquery, _, hrep, hnak, decide_eq_true ⟨hquery, hnak⟩,
      decide_eq_true (hback ▸ hs.symm)⟩

/-- Settles O18: the report of the completed tick names both states. -/
theorem onlyACompletedTickWritesState : Obligations.OnlyACompletedTickWritesState := by
  intro s t h hne
  rcases step_state_cases h with hsame | ⟨hreset, -⟩ | ⟨r, hnext, hrep, hidle, hfault⟩
  · exact absurd hsame hne
  · exact .inl hreset
  · exact .inr ⟨_, hrep, rfl, hnext.symm, decide_eq_true (hnext ▸ hne), hidle, hfault⟩

/-! ### When a step stops -/

theorem edge_of_rst {p : PortIn} (h : p.rst = true) (s : State) :
    edge p s = .next ((s.takenAtReset p).hardReset p.config) := if_pos h

theorem edge_of_config_ne {p : PortIn} {s : State} (hrst : p.rst = false) (h : p.config ≠ s.cfg) :
    edge p s = .refused .strapsChanged := by simp [edge, hrst, h]

theorem edge_of_decide {p : PortIn} {s : State} (h : p.steady s.cfg) (hp : s.phase = .decide) :
    edge p s = edgeDecide s := by
  rw [edge_of_steady h, hp]

theorem edgeDecide_of_response {s : State} {r : List Byte} (h : s.response = .ok r) :
    edgeDecide s = .next (s.decideTick s.state r) := by simp [edgeDecide, h]

theorem edgeTx_of_txReady {p : PortIn} {s : State} {b : Byte} (herr : p.tpError = false) (hready : p.txReady = true)
    (hb : s.txByte = .ok b) : edgeTx p s = .next (s.transferByte b) := by simp [edgeTx, herr, hready, hb]

theorem edgeTx_of_not_txReady {p : PortIn} (herr : p.tpError = false) (hready : p.txReady = false) (s : State) :
    edgeTx p s = .next s.hold := by simp [edgeTx, herr, hready]

theorem edgeRx_of_not_tpError {p : PortIn} (herr : p.tpError = false) (s : State) :
    edgeRx p s = .next ((s.acceptOffered p).endReceive p.rxDone) := by simp [edgeRx, herr]

/-- R89 (3): a filled buffer is read without a stop. -/
theorem State.exists_response {s : State} (h : s.rxbuf.Filled s.rxcnt.toNat) : ∃ r, s.response = .ok r :=
  (State.response_of_filled h.fits h.isSome).imp fun _ hr => hr.1

/-- Under the invariant an edge with steady straps and without a reset answers a next state. -/
theorem State.Inv.edge_of_steady {s : State} (h : s.Inv) {p : PortIn} (hp : p.steady s.cfg) :
    ∃ t, Machine.edge p s = .next t := by
  cases hphase : s.phase with
  | idle =>
    rw [edge_of_idle hp hphase]
    by_cases hstart : p.tickStart = true ∧ s.fault = false
    · exact ⟨_, edgeIdle_of_start hstart⟩
    · exact ⟨_, edgeIdle_of_not_start hstart⟩
  | tx =>
    rw [edge_of_tx hp hphase]
    obtain ⟨hidx, hsum, -⟩ := h.sending hphase
    obtain ⟨b, -, hb⟩ := State.txByte_of_sum hidx hsum
    by_cases herr : p.tpError = true
    · exact ⟨_, edgeTx_of_tpError herr s⟩
    · rw [Bool.not_eq_true] at herr
      by_cases hready : p.txReady = true
      · exact ⟨_, edgeTx_of_txReady herr hready hb⟩
      · exact ⟨_, edgeTx_of_not_txReady herr (Bool.not_eq_true _ ▸ hready) s⟩
  | rx =>
    rw [edge_of_rx hp hphase]
    by_cases herr : p.tpError = true
    · exact ⟨_, edgeRx_of_tpError herr s⟩
    · exact ⟨_, edgeRx_of_not_tpError (Bool.not_eq_true _ ▸ herr) s⟩
  | decide =>
    rw [edge_of_decide hp hphase]
    obtain ⟨r, hr⟩ := State.exists_response h.filled
    exact ⟨_, edgeDecide_of_response hr⟩

/-- U4: under the invariant the one edge that stops is refused for its straps. -/
theorem State.Inv.edge_cases {s : State} (h : s.Inv) (p : PortIn) :
    (∃ t, Machine.edge p s = .next t) ∨
    (Machine.edge p s = .refused .strapsChanged ∧ p.rst = false ∧ p.config ≠ s.cfg) := by
  cases hrst : p.rst with
  | true => exact .inl ⟨_, edge_of_rst hrst s⟩
  | false =>
    by_cases hcfg : p.config = s.cfg
    · exact .inl (h.edge_of_steady ⟨hrst, hcfg⟩)
    · exact .inr ⟨edge_of_config_ne hrst hcfg, rfl, hcfg⟩

theorem State.Inv.respond_next {s : State} (h : s.Inv) (bs : List Byte) : ∃ t, Machine.respond bs s = .next t := by
  rcases respond_cases (rfl : Machine.respond bs s = _) with ⟨-, r, -, ho⟩ | ⟨hrx, e, he, -⟩ | ⟨-, ho⟩
  · exact ⟨_, ho⟩
  · obtain ⟨r, hr⟩ := State.exists_response
      (State.filled_accept h.consume.filled (State.take_room_fits (h.count_le (.inl hrx)) bs))
    cases hr.symm.trans he
  · exact ⟨_, ho⟩

/-- What a step can do under the invariant. -/
theorem State.Inv.step_cases {s : State} (h : s.Inv) :
    (∃ t, Machine.step s = .next t) ∨
    (Machine.step s = .refused .strapsChanged ∧
      ∃ p rest, s.inbox = .edge p :: rest ∧ p.rst = false ∧ p.config ≠ s.cfg) := by
  rcases Machine.step_cases (rfl : Machine.step s = _) with
    ⟨_, _, _, -, -, ho⟩ | ⟨_, _, _, -, -, ho⟩ | ⟨r, _, -, ho⟩ | ⟨p, rest, hin, ho⟩ | ⟨-, ho⟩
  · exact .inl ⟨_, ho⟩
  · exact .inl ⟨_, ho⟩
  · rw [ho]
    exact .inl (h.respond_next _)
  · rw [ho]
    exact (h.consume.edge_cases p).imp_right fun ⟨he, hrst, hcfg⟩ => ⟨he, p, rest, hin, hrst, hcfg⟩
  · rw [ho]
    exact .inl (h.edge_of_steady (quietPorts_steady _))

/-- Settles O48. -/
theorem noStepStopsUnderTheInvariant : Obligations.NoStepStopsUnderTheInvariant := by
  intro s h
  rcases h.step_cases with ⟨t, ht⟩ | ⟨hrefused, hinput⟩
  · exact ⟨fun e he => by simp [ht] at he, fun e he => by simp [ht] at he⟩
  · refine ⟨fun e he => by simp [hrefused] at he, fun e he => ⟨?_, hinput⟩⟩
    simpa [hrefused] using he.symm

/-- Steady straps are never refused, whatever the phase. -/
theorem edge_ne_refused {p : PortIn} {s : State} (h : p.steady s.cfg) (e : Refusal) : edge p s ≠ .refused e := by
  cases hp : s.phase with
  | idle =>
    rw [edge_of_idle h hp, edgeIdle]
    split <;> simp
  | tx =>
    rw [edge_of_tx h hp, edgeTx]
    cases s.txByte <;> (repeat' split) <;> simp
  | rx =>
    rw [edge_of_rx h hp, edgeRx]
    split <;> simp
  | decide =>
    rw [edge_of_decide h hp, edgeDecide]
    cases s.response <;> simp

/-- Settles O40. -/
theorem changingTheStrapsIsRefused : Obligations.ChangingTheStrapsIsRefused :=
  fun _ _ hrst => ⟨⟨fun ⟨e, he⟩ hcfg => edge_ne_refused ⟨hrst, hcfg⟩ e he,
    fun hcfg => ⟨_, edge_of_config_ne hrst hcfg⟩⟩, edge_of_config_ne hrst⟩

/-! ### Faults -/

/-- R121, R144: an idle block that is faulted waits at every edge without reset. -/
theorem edge_of_faulted {p : PortIn} {s t : State} (hp : s.phase = .idle) (hf : s.fault = true) (hrst : p.rst = false)
    (h : edge p s = .next t) : t = s.hold := by
  rcases edge_cases h with ⟨hr, -⟩ | ⟨-, -, ⟨-, he⟩ | ⟨htx, -⟩ | ⟨hrx, -⟩ | ⟨hd, -⟩⟩
  · simp [hrst] at hr
  · rcases edgeIdle_cases he with ⟨-, hnf, -⟩ | ht
    · simp [hf] at hnf
    · exact ht
  · simp [hp] at htx
  · simp [hp] at hrx
  · simp [hp] at hd

/-- Settles O50: a faulted block is idle, and neither a request nor a response nor an edge moves it. -/
theorem aFaultedBlockDoesNothing : Obligations.AFaultedBlockDoesNothing := by
  intro s t h hf ht hreset
  have hp := h.faultStops hf
  rcases step_cases ht with
    ⟨_, _, _, -, hc, -⟩ | ⟨_, _, _, -, -, ho⟩ | ⟨r, _, -, ho⟩ | ⟨p, rest, hin, ho⟩ | ⟨hin, ho⟩
  · simp [State.canStart, hf] at hc
  · cases ho
    rfl
  · rcases respond_cases ho.symm with ⟨hrx, -⟩ | ⟨hrx, -⟩ | ⟨-, ho⟩
    · simp [hp] at hrx
    · simp [hp] at hrx
    · cases ho
      rfl
  · have hrst : p.rst = false := Bool.eq_false_iff.2 fun hr => hreset ⟨p, rest, hin, hr⟩
    exact edge_of_faulted (s := s.consume) hp hf hrst ho.symm
  · rw [edge_of_faulted hp hf rfl ho.symm, State.hold, hin]
    rfl

/-- R135, R143: an edge raises `FAULT` only by `tp_error` in phase TX or RX. -/
theorem edge_raises_fault {p : PortIn} {s t : State} (hf : s.fault = false) (h : edge p s = .next t)
    (ht : t.fault = true) :
    p.tpError = true ∧ ((s.phase = .tx ∧ t = s.takeTransportError .transmit) ∨
      (s.phase = .rx ∧ t = s.takeTransportError .receive)) := by
  rcases edge_cases h with ⟨-, rfl⟩ | ⟨-, -, ⟨-, he⟩ | ⟨htx, he⟩ | ⟨hrx, he⟩ | ⟨-, he⟩⟩
  · simp at ht
  · rcases edgeIdle_cases he with ⟨-, -, rfl⟩ | rfl <;> simp [hf] at ht
  · rcases edgeTx_cases he with ⟨herr, rfl⟩ | ⟨-, -, b, -, rfl⟩ | ⟨-, -, rfl⟩
    · exact ⟨herr, .inl ⟨htx, rfl⟩⟩
    · simp [hf] at ht
    · simp [hf] at ht
  · rcases edgeRx_cases he with ⟨herr, rfl⟩ | ⟨-, rfl⟩
    · exact ⟨herr, .inr ⟨hrx, rfl⟩⟩
    · simp [hf] at ht
  · obtain ⟨r, -, rfl⟩ := edgeDecide_cases he
    simp [hf] at ht

theorem respond_fault {bs : List Byte} {s t : State} (h : respond bs s = .next t) : t.fault = s.fault := by
  rcases respond_cases h with ⟨-, r, -, ho⟩ | ⟨-, e, -, ho⟩ | ⟨-, ho⟩ <;> cases ho <;> rfl

/-- Settles O51: of all a step can do, a tick whose transport failed and an edge with `tp_error` raise `FAULT`. -/
theorem onlyATransportErrorSetsFault : Obligations.OnlyATransportErrorSetsFault := by
  intro s t hf h ht
  rcases step_cases h with
    ⟨tx, rx, rest, hin, -, ho⟩ | ⟨_, _, _, -, -, ho⟩ | ⟨r, _, -, ho⟩ | ⟨p, rest, hin, ho⟩ | ⟨-, ho⟩
  · cases ho
    cases tx with
    | error k => exact ⟨rfl, rfl, rfl, .inl ⟨rfl, .inl ⟨k, rx, rest, hin⟩⟩⟩
    | ok =>
      cases rx with
      | error got => exact ⟨rfl, rfl, rfl, .inr ⟨rfl, .inl ⟨got, rest, hin⟩⟩⟩
      | ok r => exact absurd (hf.symm.trans ht) (by decide)
  · cases ho
    simp [hf] at ht
  · simp [respond_fault ho.symm, hf] at ht
  · obtain ⟨herr, ⟨hp, rfl⟩ | ⟨hp, rfl⟩⟩ := edge_raises_fault (s := s.consume) hf ho.symm ht
    · exact ⟨rfl, rfl, rfl, .inl ⟨rfl, .inr ⟨p, rest, hin, herr, hp⟩⟩⟩
    · exact ⟨rfl, rfl, rfl, .inr ⟨rfl, .inr ⟨p, rest, hin, herr, hp⟩⟩⟩
  · obtain ⟨herr, -⟩ := edge_raises_fault hf ho.symm ht
    simp [quietPorts] at herr

/-! ### Reads of RXBUF -/

theorem State.ports_rxBuf_getElem? {s : State} {i : Nat} (h : i < rxbufDepth) :
    s.ports.rxBuf[i]? = some (s.readRxBuf i).toOption := by
  simp [State.ports, List.getElem?_range h]

theorem State.readRxBuf_of_depth_le {i : Nat} (h : rxbufDepth ≤ i) (s : State) :
    s.readRxBuf i = .error (.rxbufNoSuchOffset i) := if_pos h

theorem State.readRxBuf_of_count_le {s : State} {i : Nat} (hi : i < rxbufDepth) (h : s.rxcnt.toNat ≤ i) :
    s.readRxBuf i = .error (.rxbufUnspecified i) := by
  rw [State.readRxBuf, if_neg (Nat.not_le.2 hi), if_pos h]

/-- Settles O59. -/
theorem unspecifiedBytesAreNeverRead : Obligations.UnspecifiedBytesAreNeverRead := by
  refine fun s i => ⟨fun h => State.readRxBuf_of_depth_le h s, fun hi hcnt => ?_, fun h hi => ?_⟩
  · have hread := State.readRxBuf_of_count_le hi hcnt
    exact ⟨hread, by rw [State.ports_rxBuf_getElem? hi, hread]; rfl⟩
  · obtain ⟨b, hb⟩ := Option.isSome_iff_exists.1 (h.bufFilled i hi)
    have hdepth := Nat.lt_of_lt_of_le hi h.countFits
    have hread := State.readRxBuf_eq_ok.2 ⟨hdepth, hi, hb⟩
    exact ⟨b, hread, hb, by rw [State.ports_rxBuf_getElem? hdepth, hread]; rfl⟩

end Sys2Proof.Machine
end

section
/-! Proofs of the tick statements: one tick as a function of the transport's answers (R120 to R126), the tick of each
state (R101 to R115), and the two transport faults (R123, R124, R143). -/

namespace Sys2Proof.Machine

/-! ### The step that runs a tick -/

theorem Requested.consume_eq {s : State} {tx : TxAnswer} {rx : RxAnswer} {rest : List Input}
    (h : Requested s tx rx rest) : s.consume = { s with inbox := rest } := by
  rw [State.consume, h.1]
  rfl

theorem Requested.canStart {s : State} {tx : TxAnswer} {rx : RxAnswer} {rest : List Input}
    (h : Requested s tx rx rest) : s.canStart = true := State.canStart_iff.2 h.2

/-- R126: a requested command runs the tick of its state. -/
theorem Requested.exec_eq {s : State} {tx : TxAnswer} {rx : RxAnswer} {rest : List Input} (h : Requested s tx rx rest)
    (p : ProtoState) : exec (Instr.ofState p) s = .next (({ s with inbox := rest } : State).tick p tx rx) := by
  rw [exec_ofState, ← h.consume_eq]
  simp [runCommand, h.1, h.canStart]

theorem step_of_fetch {s : State} {i : Instr} (h : fetch s = some i) : step s = exec i s := by simp [step, h]

theorem Requested.fetch_eq {s : State} {tx : TxAnswer} {rx : RxAnswer} {rest : List Input}
    (h : Requested s tx rx rest) : fetch s = some (Instr.ofState s.state) := by
  simp [fetch, h.1, h.canStart, decodeCommand_frame, Except.toOption]

/-- R122, R126: a requested step runs the tick of STATE. -/
theorem Requested.step_eq {s : State} {tx : TxAnswer} {rx : RxAnswer} {rest : List Input} (h : Requested s tx rx rest) :
    step s = .next (({ s with inbox := rest } : State).tick s.state tx rx) := by
  rw [step_of_fetch h.fetch_eq, h.exec_eq]

/-! ### The registers after a tick -/

/-- R122, R130: the whole frame is out and the receive is open. -/
theorem State.transmitted_eq (p : ProtoState) (s : State) :
    (s.beginTick.transmit p (framelen p)).openReceive =
      { s with
        phase := .rx, txidx := BitVec.ofNat 4 (oplen p), ckacc := 0, rxcnt := 0
        wireTx := s.wireTx ++ frame p, report := none } := by
  have hidx : min (framelen p) (oplen p) = oplen p := Nat.min_eq_right (Nat.le_succ _)
  simp [State.openReceive, State.transmit, State.beginTick, take_frame_framelen, sum8_frame, hidx]

theorem State.tick_transmit_error (p : ProtoState) (k : Nat) (rx : RxAnswer) (s : State) :
    s.tick p (.error k) rx =
      { s with
        fault := true, fphase := .transmit, phase := .idle
        txidx := BitVec.ofNat 4 (min k (oplen p)), ckacc := sum8 ((frame p).take (min k (oplen p))), rxcnt := 0
        wireTx := s.wireTx ++ (frame p).take (min k (oplen p)), report := none } := by
  simp [State.tick, State.takeTransportError, State.transmit, State.beginTick]

theorem State.tick_receive_error (p : ProtoState) (got : List Byte) (s : State) :
    s.tick p .ok (.error got) =
      { s with
        fault := true, fphase := .receive, phase := .idle
        txidx := BitVec.ofNat 4 (oplen p), ckacc := 0
        rxcnt := BitVec.ofNat 5 (got.take (respLen s.cfg p - 1)).length
        rxbuf := s.rxbuf.writeBytes 0 (got.take (respLen s.cfg p - 1))
        wireTx := s.wireTx ++ frame p, report := none } := by
  simp [State.tick, State.transmitted_eq, State.answerReceive, State.takeTransportError, State.accept]

theorem State.tick_ok (p : ProtoState) (r : List Byte) (s : State) :
    s.tick p .ok (.ok r) =
      { s with
        state := next p (classify s.cfg p (r.take (respLen s.cfg p))), phase := .idle
        txidx := BitVec.ofNat 4 (oplen p), ckacc := 0
        rxcnt := BitVec.ofNat 5 (r.take (respLen s.cfg p)).length
        rxbuf := s.rxbuf.writeBytes 0 (r.take (respLen s.cfg p))
        wireTx := s.wireTx ++ frame p, report := some (tickReport s.cfg p (r.take (respLen s.cfg p))) } := by
  simp [State.tick, State.transmitted_eq, State.answerReceive, State.decideTick, State.accept]

/-- D14: the bytes past the length asked for are not looked at. -/
theorem State.tick_append {p : ProtoState} {r : List Byte} {s : State} (h : r.length = respLen s.cfg p)
    (more : List Byte) : s.tick p .ok (.ok (r ++ more)) = s.tick p .ok (.ok r) := by
  simp only [State.tick_ok, List.take_left' h, List.take_of_length_le h.le]

@[simp] theorem State.tick_cfg (p : ProtoState) (tx : TxAnswer) (rx : RxAnswer) (s : State) :
    (s.tick p tx rx).cfg = s.cfg := by
  cases tx with
  | error k => rfl
  | ok => cases rx <;> rfl

@[simp] theorem State.tick_inbox (p : ProtoState) (tx : TxAnswer) (rx : RxAnswer) (s : State) :
    (s.tick p tx rx).inbox = s.inbox := by
  cases tx with
  | error k => rfl
  | ok => cases rx <;> rfl

@[simp] theorem State.tick_phase (p : ProtoState) (tx : TxAnswer) (rx : RxAnswer) (s : State) :
    (s.tick p tx rx).phase = .idle := by
  cases tx with
  | error k => rfl
  | ok => cases rx <;> rfl

@[simp] theorem State.tick_rxbuf (p : ProtoState) (tx : TxAnswer) (rx : RxAnswer) (s : State) :
    (s.tick p tx rx).rxbuf = s.rxbuf.writeBytes 0 (storedByTick s.cfg p tx rx) := by
  cases tx with
  | error k => rfl
  | ok => cases rx <;> rfl

theorem storedByTick_length_le (cfg : Config) (p : ProtoState) (tx : TxAnswer) (rx : RxAnswer) :
    (storedByTick cfg p tx rx).length ≤ rxbufDepth := by
  cases tx with
  | error k => exact Nat.zero_le _
  | ok =>
    cases rx with
    | error got => exact (List.length_take_le _ _).trans ((Nat.sub_le _ _).trans (respLen_le cfg p))
    | ok r => exact (List.length_take_le _ _).trans (respLen_le cfg p)

theorem State.tick_rxcnt (p : ProtoState) (tx : TxAnswer) (rx : RxAnswer) (s : State) :
    (s.tick p tx rx).rxcnt = BitVec.ofNat 5 (storedByTick s.cfg p tx rx).length := by
  cases tx with
  | error k => rfl
  | ok =>
    cases rx with
    | error got => rw [State.tick_receive_error]; rfl
    | ok r => rw [State.tick_ok]; rfl

@[simp] theorem State.tick_rxcnt_toNat (p : ProtoState) (tx : TxAnswer) (rx : RxAnswer) (s : State) :
    (s.tick p tx rx).rxcnt.toNat = (storedByTick s.cfg p tx rx).length := by
  have hdepth : rxbufDepth = 23 := rfl
  have hlen := storedByTick_length_le s.cfg p tx rx
  rw [State.tick_rxcnt, BitVec.toNat_ofNat, Nat.mod_eq_of_lt (by omega)]

/-- The response a tick leaves in the buffer, whatever the buffer held before. -/
theorem State.tick_response (p : ProtoState) (tx : TxAnswer) (rx : RxAnswer) (s : State) :
    (s.tick p tx rx).response = .ok (storedByTick s.cfg p tx rx) := by
  refine State.response_eq_ok.2 ⟨by simp, by simpa using storedByTick_length_le s.cfg p tx rx, fun i hi => ?_⟩
  rw [State.tick_rxcnt_toNat] at hi
  simpa using Memory.read_writeBytes_inside s.rxbuf 0 _ hi

/-! ### The ticks of the states -/

/-- R100, R126: a tick that is answered completes. -/
theorem State.tick_completed (s : State) (rest : List Input) (p : ProtoState) (r : List Byte) :
    (({ s with inbox := rest } : State).tick p .ok (.ok r)) =
      completed s rest p (next p (classify s.cfg p (r.take (respLen s.cfg p)))) (frame p) (respLen s.cfg p) r
        (classify s.cfg p (r.take (respLen s.cfg p))) := by
  have hindex : (frame p).length - 1 = oplen p := by rw [frame_length, framelen, Nat.add_sub_cancel]
  have hshort : (r.take (respLen s.cfg p)).length < respLen s.cfg p ↔ r.length < respLen s.cfg p := by
    rw [List.length_take]
    omega
  simp only [State.tick_ok, completed, hindex, List.length_take, Nat.min_comm, tickReport, shortRead, mismatch,
    stateChanged, sessionComplete, protoReset, isQuery_iff]
  rw [List.length_take, Nat.min_comm] at hshort
  simp only [hshort]

/-- One tick of the state `p`, from its class. -/
theorem Requested.exec_completed {s : State} {r : List Byte} {rest : List Input} (h : Requested s .ok (.ok r) rest)
    {p : ProtoState} {L : Nat} {f : List Byte} {c : Classification} (hL : respLen s.cfg p = L) (hf : frame p = f)
    (hc : classify s.cfg p (r.take L) = c) :
    exec (Instr.ofState p) s = .next (completed s rest p (next p c) f L r c) := by
  subst hL hf hc
  rw [h.exec_eq, State.tick_completed]

theorem frame_haltStream : frame .haltStream = [0x10, 0x01, 0xEF] := by decide

theorem frame_getInterval : frame .getInterval = [0x10, 0x02, 0x02, 0xFF, 0xED] := by decide

theorem frame_vendorCode : frame .vendorCode = [0x10, 0x0A, 0x0A, 0, 0, 0, 0, 0, 0, 0, 0x00, 0xDC] := by decide

/-- Settles O19: any byte is an Ack, and no byte is Incomplete. -/
theorem haltStreamTick : Obligations.HaltStreamTick := by
  refine ⟨fun cfg => ⟨rfl, rfl, minLen_haltStream cfg⟩, fun s r rest h => ?_⟩
  have hclass : classify s.cfg .haltStream (r.take 4) = if r = [] then .incomplete else .ack := by
    simp [classify_haltStream]
  refine (h.exec_completed rfl frame_haltStream hclass).trans ?_
  by_cases hr : r = [] <;> simp only [hr, if_true, if_false] <;> rfl

theorem minLen_getInterval (cfg : Config) :
    minLen cfg .getInterval = if cfg.shortRead = .fullLength then 5 else 1 := by
  obtain ⟨v, policy⟩ := cfg
  cases policy <;> rfl

theorem minLen_vendorCode_canonical {cfg : Config} (h : cfg.vendorMode = .canonical12) :
    minLen cfg .vendorCode = if cfg.shortRead = .fullLength then 12 else 3 := by
  obtain ⟨v, policy⟩ := cfg
  cases h
  cases policy <;> rfl

theorem minLen_vendorCode_legacy {cfg : Config} (h : cfg.vendorMode = .legacy23) :
    minLen cfg .vendorCode = if cfg.shortRead = .fullLength then 23 else 4 := by
  obtain ⟨v, policy⟩ := cfg
  cases h
  cases policy <;> rfl

/-- R110: what the five query states have in common. -/
theorem query_constants {p : ProtoState} (h : isQuery p = true) (cfg : Config) :
    respLen cfg p = 12 ∧ ackPat cfg p = .ack3 ∧ nakPat p = some .nak3 ∧
      minLen cfg p = if cfg.shortRead = .fullLength then 12 else 3 := by
  obtain ⟨v, policy⟩ := cfg
  cases p with
  | haltStream => simp [isQuery] at h
  | getInterval => simp [isQuery] at h
  | vendorCode => simp [isQuery] at h
  | _ => cases policy <;> exact ⟨rfl, rfl, rfl, rfl⟩

/-- Settles O20: there is no nak pattern, and the first byte decides. -/
theorem getIntervalTick : Obligations.GetIntervalTick := by
  refine ⟨fun cfg => ⟨rfl, rfl, minLen_getInterval cfg⟩, fun s r rest c h hc => ?_⟩
  have hclass : classify s.cfg .getInterval (r.take 5) = c := by
    rw [classify_getInterval, minLen_getInterval, hc]
    simp [List.head?_take]
  refine (h.exec_completed (L := 5) rfl frame_getInterval hclass).trans ?_
  have hnext : next .getInterval c = if c = .ack then .vendorCode else .getInterval := by cases c <;> rfl
  rw [hnext]

theorem next_vendorCode (c : Classification) : next .vendorCode c = if c = .ack then .serialNumber else .vendorCode := by
  cases c <;> rfl

/-- Settles O21: judged by `ACK3` and `NAK3`, of which the second retries. -/
theorem vendorCodeTickCanonical : Obligations.VendorCodeTickCanonical := by
  refine ⟨fun v => ⟨rfl, rfl, rfl⟩, fun s r rest c h hmode hc => ?_⟩
  have hlen : respLen s.cfg .vendorCode = 12 := by simp [respLen, hmode]
  have hpat : ackPat s.cfg .vendorCode = .ack3 := by simp [ackPat, hmode]
  have hclass : classify s.cfg .vendorCode (r.take 12) = c := by
    rw [classify_eq_judged rfl, minLen_vendorCode_canonical hmode, hpat, hc]
    rfl
  refine (h.exec_completed hlen frame_vendorCode hclass).trans ?_
  rw [next_vendorCode]

/-- Settles O22: judged by `VACK4` and `NAK3`. -/
theorem vendorCodeTickLegacy : Obligations.VendorCodeTickLegacy := by
  refine ⟨fun v => ⟨rfl, rfl, rfl⟩, fun s r rest c h hmode hc => ?_⟩
  have hlen : respLen s.cfg .vendorCode = 23 := by simp [respLen, hmode]
  have hpat : ackPat s.cfg .vendorCode = .vack4 := by simp [ackPat, hmode]
  have hclass : classify s.cfg .vendorCode (r.take 23) = c := by
    rw [classify_eq_judged rfl, minLen_vendorCode_legacy hmode, hpat, hc]
    rfl
  refine (h.exec_completed hlen frame_vendorCode hclass).trans ?_
  rw [next_vendorCode]

theorem queryNext_eq (self succ : ProtoState) (c : Classification) :
    queryNext self succ c = if c = .ack then succ else if c = .nak then .haltStream else self := by
  cases c <;> rfl

/-- R110: the tick of a query state, from its frame and its successor. -/
theorem queryTick {i : Instr} {p q : ProtoState} {f : List Byte} (hi : i = Instr.ofState p) (hquery : isQuery p = true)
    (hnext : ∀ c, next p c = queryNext p q c) (hf : frame p = f) {s : State} {r : List Byte} {rest : List Input}
    {c : Classification} (h : Requested s .ok (.ok r) rest)
    (hc : c = judged (if s.cfg.shortRead = .fullLength then 12 else 3) [0x06, 0x0A, 0x14] (r.take 12)) :
    exec i s = .next
      (completed s rest p (if c = .ack then q else if c = .nak then .haltStream else p) f 12 r c) := by
  obtain ⟨hlen, hpat, hnak, hmin⟩ := query_constants hquery s.cfg
  have hclass : classify s.cfg p (r.take 12) = c := by
    rw [classify_eq_judged hnak, hmin, hpat, hc]
    rfl
  rw [hi, h.exec_completed hlen hf hclass, hnext, queryNext_eq]

/-- Settles O23: the five states differ in the selector byte and the successor only. -/
theorem queryTicks : Obligations.QueryTicks := by
  intro i p q sel hmem
  simp only [List.mem_cons, Prod.mk.injEq, List.not_mem_nil, or_false] at hmem
  rcases hmem with ⟨rfl, rfl, rfl, rfl⟩ | ⟨rfl, rfl, rfl, rfl⟩ | ⟨rfl, rfl, rfl, rfl⟩ | ⟨rfl, rfl, rfl, rfl⟩ |
    ⟨rfl, rfl, rfl, rfl⟩
  all_goals
    refine ⟨fun cfg => ⟨rfl, rfl, rfl, by decide⟩, fun s r rest c h hc => ?_⟩
    refine queryTick ?_ ?_ ?_ ?_ h hc
    · rfl
    · rfl
    · exact fun _ => rfl
    · decide

/-! ### Faults, over-delivery and what a command leaves alone -/

/-- Settles O24. -/
theorem transmitFaultIsTaken : Obligations.TransmitFaultIsTaken := by
  intro p s k rx rest h
  rw [h.exec_eq, State.tick_transmit_error]

/-- Settles O25: what is stored of the answer is cut to the length asked for. -/
theorem receiveFaultIsTakenAndOverDeliveryIsCut : Obligations.ReceiveFaultIsTakenAndOverDeliveryIsCut := by
  refine ⟨fun p s got rest h => ?_, fun p s r more rest hr => ?_⟩
  · rw [h.exec_eq, State.tick_receive_error]
  · have hcut := State.tick_append (s := { s with inbox := rest }) hr more
    simp only [exec_ofState, runCommand, State.consume, List.tail_cons, hcut]
    rfl

/-- R121: a request that cannot run is used up. -/
theorem runCommand_of_cannotStart {s : State} {tx : TxAnswer} {rx : RxAnswer} {rest : List Input}
    (hin : s.inbox = .tick tx rx :: rest) (h : s.canStart = false) (p : ProtoState) :
    runCommand p s = .next s.consume.hold := by
  simp [runCommand, hin, h]

/-- Settles O26. -/
theorem requestsAreIgnoredWhileBusyOrFaulted : Obligations.RequestsAreIgnoredWhileBusyOrFaulted := by
  intro s tx rx rest hin hbusy
  have hc : s.canStart = false := by
    rw [Bool.eq_false_iff, ne_eq, State.canStart_iff]
    rintro ⟨hidle, hf⟩
    exact hbusy.elim (· hidle) (by simp [hf])
  have hused : s.consume.hold = { s with inbox := rest, report := none } := by
    rw [State.consume, hin]
    rfl
  refine ⟨?_, fun p => by rw [exec_ofState, runCommand_of_cannotStart hin hc, hused]⟩
  have hfetch : fetch s = none := by simp [fetch, hin, hc]
  simp [step, hfetch, noInstruction, hin, hused]

/-- Settles O27: at a query state a Nak leads back, and the strict policy has its twelve bytes. -/
theorem nakResetsFromEveryQueryState : Obligations.NakResetsFromEveryQueryState := by
  intro s r rest h hquery hheader hstrict
  rw [← isQuery_iff] at hquery
  obtain ⟨hlen, -, hnak, hmin⟩ := query_constants hquery s.cfg
  have hthree : 3 ≤ r.length := by
    have := congrArg List.length hheader
    simp at this
    omega
  have hclass : classify s.cfg s.state (r.take (respLen s.cfg s.state)) = .nak := by
    refine classify_eq_nak_iff.2 ⟨?_, by simp [hnak], by simp [hlen, List.take_take, hheader]⟩
    rw [hmin, hlen, List.length_take]
    split
    · have := hstrict ‹_›
      omega
    · omega
  have hnext : next s.state .nak = .haltStream := by
    cases hs : s.state <;> simp [hs, isQuery] at hquery <;> rfl
  refine ⟨_, _, h.step_eq, ?_, ?_, rfl, ?_, ?_⟩
  · rw [State.tick_ok, hclass, hnext]
  · rw [State.tick_ok, h.2.2]
  · exact decide_eq_true ⟨hquery, hclass⟩
  · exact hclass

/-- The wire grows by the frame, or by the part of it a failing transmit took. -/
theorem State.tick_wireTx (p : ProtoState) (tx : TxAnswer) (rx : RxAnswer) (s : State) :
    ∃ n, (s.tick p tx rx).wireTx = s.wireTx ++ (frame p).take n := by
  cases tx with
  | error k => exact ⟨_, rfl⟩
  | ok => cases rx <;> exact ⟨framelen p, rfl⟩

/-- Settles O28: by the transport's answers. -/
theorem commandsChangeNothingElse : Obligations.CommandsChangeNothingElse := by
  intro p s t tx rx rest h ht
  rw [h.exec_eq] at ht
  cases ht
  refine ⟨by simp, by simp, by simp, fun a ha => ?_, fun a ha => ?_, by simp, ?_, ?_, ?_, State.tick_wireTx _ _ _ _⟩
  · rw [State.tick_rxbuf, Memory.read_writeBytes_outside _ _ _ (.inr (by simpa using ha))]
  · simpa using Memory.read_writeBytes_inside s.rxbuf 0 _ ha
  · rintro rfl ⟨r, rfl⟩
    rw [State.tick_ok]
    exact ⟨h.2.2, rfl, rfl⟩
  · rintro rfl r rfl
    rw [State.tick_ok]
  · rintro (⟨k, rfl⟩ | ⟨got, rfl⟩)
    · exact ⟨rfl, rfl⟩
    · cases tx <;> exact ⟨rfl, rfl⟩

end Sys2Proof.Machine
end

section
/-! Proofs of the response statements: a response instruction in an open receive (R132 to R134) and the headers of R66 in
the states that look for them; which instruction a step runs (R122, R132) and a placed table word (R76). -/

namespace Sys2Proof.Machine

/-! ### A response in an open receive -/

/-- The response is a matter of `RXBUF` and `RXCNT` alone. -/
theorem State.response_congr {s t : State} {r : List Byte} (h : s.response = .ok r) (hbuf : t.rxbuf = s.rxbuf)
    (hcnt : t.rxcnt = s.rxcnt) : t.response = .ok r := by
  rw [State.response_eq_ok] at h ⊢
  rwa [hbuf, hcnt]

/-- R132 to R134: the bytes that fit join those already there, and the whole is decided. -/
theorem respond_of_rx {s : State} {r0 : List Byte} (hp : s.phase = .rx) (hr : s.response = .ok r0)
    (hcnt : s.rxcnt.toNat ≤ respLen s.cfg s.state) (bs : List Byte) :
    respond bs s = .next ((s.consume.accept (bs.take s.room)).decideTick s.state (r0 ++ bs.take s.room)) := by
  have hresp : (s.consume.accept (bs.take s.room)).response = .ok (r0 ++ bs.take s.room) :=
    (State.response_accept (s := s.consume) (State.response_congr hr rfl rfl) (State.take_room_fits hcnt bs)).1
  rw [respond, if_pos hp, hresp]

theorem State.response_of_fresh {s : State} (h : s.rxcnt = 0) : s.response = .ok [] :=
  State.response_eq_ok.2 (by simp [h])

theorem State.room_of_fresh {s : State} (h : s.rxcnt = 0) : s.room = respLen s.cfg s.state := by simp [State.room, h]

/-- Settles O29. -/
theorem responseIsTakenAndDecided : Obligations.ResponseIsTakenAndDecided := by
  intro i s r0 bs c hcmd hp hr hcnt hbs hc
  have hlen : r0.length = s.rxcnt.toNat := (State.response_eq_ok.1 hr).1
  have hnew : s.rxcnt + BitVec.ofNat 5 bs.length = BitVec.ofNat 5 (r0 ++ bs).length := by
    rw [List.length_append, hlen, BitVec.ofNat_add, BitVec.ofNat_toNat, BitVec.setWidth_eq]
  rw [exec_response hcmd, respond_of_rx hp hr hcnt, State.room, ← hbs, hc, ← hnew]
  simp only [State.decideTick, State.accept, State.consume, tickReport, protoReset, isQuery_iff]
  rfl

/-- R132: "A byte presented while `rx_req = 0` is not taken by the block". -/
theorem respond_of_not_rx {s : State} (h : s.phase ≠ .rx) (bs : List Byte) : respond bs s = .next s.consume.hold :=
  if_neg h

/-- Settles O31. -/
theorem responseOutsideAReceiveIsNotTaken : Obligations.ResponseOutsideAReceiveIsNotTaken := by
  intro i s hcmd hp
  rw [exec_response hcmd, respond_of_not_rx hp]
  rfl

/-- Settles O32: by whether the receive is open. -/
theorem responsesChangeNothingElse : Obligations.ResponsesChangeNothingElse := by
  intro i s t hcmd ht
  rw [exec_response hcmd] at ht
  rcases respond_cases ht with ⟨hrx, r, -, ho⟩ | ⟨-, e, -, ho⟩ | ⟨-, ho⟩ <;> cases ho
  · refine ⟨rfl, rfl, rfl, rfl, rfl, rfl, rfl, fun hne => absurd hrx hne, fun a ha => ?_⟩
    exact Memory.read_writeBytes_outside _ _ _ ha
  · exact ⟨rfl, rfl, rfl, rfl, rfl, rfl, rfl, fun _ => ⟨rfl, rfl, rfl, rfl⟩, fun _ _ => rfl⟩

/-! ### The headers -/

/-- Where a response leads from a fresh open receive. -/
theorem exec_response_fresh {s : State} (hp : s.phase = .rx) (h0 : s.rxcnt = 0) {i : Instr} (hcmd : i.command? = none)
    {c : Classification} (hc : classify s.cfg s.state ((encode i).take (respLen s.cfg s.state)) = c) :
    ∃ t, exec i s = .next t ∧ t.state = next s.state c := by
  have hcnt : s.rxcnt.toNat ≤ respLen s.cfg s.state := by simp [h0]
  refine ⟨_, (exec_response hcmd s).trans (respond_of_rx hp (State.response_of_fresh h0) hcnt _), ?_⟩
  rw [← hc, State.room_of_fresh h0]
  rfl

theorem minLen_le_respLen (cfg : Config) (p : ProtoState) : minLen cfg p ≤ respLen cfg p := by
  obtain ⟨v, policy⟩ := cfg
  cases policy <;> cases p <;> cases v <;> decide

/-- Every state asks for enough bytes to keep a header whole. -/
theorem take_header (cfg : Config) (p : ProtoState) {h : List Byte} (hlen : h.length ≤ 4) (pl : List Byte) :
    ((h ++ pl).take (respLen cfg p)).take h.length = h := by
  rw [List.take_take, Nat.min_eq_left (hlen.trans (four_le_respLen cfg p)), List.take_left]

theorem minLen_le_length_take {cfg : Config} {p : ProtoState} {r : List Byte} (h : minLen cfg p ≤ r.length) :
    minLen cfg p ≤ (r.take (respLen cfg p)).length := by
  rw [List.length_take]
  exact le_min (minLen_le_respLen cfg p) h

/-- R88: a response with the ack header of the state, long enough, is an Ack. -/
theorem classify_ackHeader {cfg : Config} {p : ProtoState} {q : Pattern} (hq : ackPat cfg p = q) {pl : List Byte}
    (hlen : minLen cfg p ≤ q.header.length + pl.length) :
    classify cfg p ((q.header ++ pl).take (respLen cfg p)) = .ack := by
  subst hq
  exact classify_eq_ack_iff.2 ⟨minLen_le_length_take (by simpa using hlen),
    take_header cfg p (ackPat_header_length_le cfg p) pl⟩

/-- R88: a response with the Nak header, long enough, is a Nak where the state has a nak pattern. -/
theorem classify_nakHeader {cfg : Config} {p : ProtoState} (hnak : (nakPat p).isSome = true) {pl : List Byte}
    (hlen : minLen cfg p ≤ Pattern.nak3.header.length + pl.length) :
    classify cfg p ((Pattern.nak3.header ++ pl).take (respLen cfg p)) = .nak :=
  classify_eq_nak_iff.2 ⟨minLen_le_length_take (by simpa using hlen), hnak,
    take_header cfg p (h := Pattern.nak3.header) (by decide) pl⟩

/-- A Nak header is no Ack, however long the response. -/
theorem classify_nakHeader_ne_ack {p : ProtoState} (hnak : (nakPat p).isSome = true) (cfg : Config) (pl : List Byte) :
    classify cfg p ((Pattern.nak3.header ++ pl).take (respLen cfg p)) ≠ .ack := fun h =>
  not_ackHeader_of_nakHeader hnak (take_header cfg p (h := Pattern.nak3.header) (by decide) pl) cfg
    (classify_eq_ack_iff.1 h).2

/-- R105: the longer header of the other vendor mode is no Ack. -/
theorem classify_vack4_canonical_ne_ack {cfg : Config} (hmode : cfg.vendorMode = .canonical12) (pl : List Byte) :
    classify cfg .vendorCode ((Pattern.vack4.header ++ pl).take (respLen cfg .vendorCode)) ≠ .ack := by
  have hpat : ackPat cfg .vendorCode = .ack3 := by simp [ackPat, hmode]
  have hlen : respLen cfg .vendorCode = 12 := by simp [respLen, hmode]
  intro h
  have hheader := (classify_eq_ack_iff.1 h).2
  simp [hpat, hlen, Pattern.header] at hheader

/-- R110: an Ack leads one query state forward, a Nak to HaltStream. -/
theorem next_query {p : ProtoState} (h : isQuery p = true) :
    (next p .ack).code.toNat = min 7 (p.code.toNat + 1) ∧ next p .nak = .haltStream := by
  cases p <;> simp [isQuery] at h <;> exact ⟨by decide, rfl⟩

/-- Settles O30: by the classification of the header in the state, and the transition on it. -/
theorem headersMoveTheStatesThatLookForThem : Obligations.HeadersMoveTheStatesThatLookForThem := by
  intro s pl hp h0
  have leads {i : Instr} (hcmd : i.command? = none) {c : Classification}
      (hc : classify s.cfg s.state ((encode i).take (respLen s.cfg s.state)) = c) :
      ∃ t, exec i s = .next t ∧ t.state = next s.state c := exec_response_fresh hp h0 hcmd hc
  refine ⟨fun b hs => ?_, fun hs hlen => ?_, fun hs hmode hlen => ?_, fun hs hmode hlen => ?_, fun hs hmode => ?_,
    fun hs => ?_, fun hquery hlen => ?_, fun hquery hlen => ?_⟩
  · simpa [hs, next, haltStreamNext] using leads (i := .any1 b pl) rfl (c := .ack) (by
      simp [hs, classify_haltStream, encode, respLen])
  · simpa [hs, next, getIntervalNext] using leads (i := .ack1 pl) rfl
      (classify_ackHeader (q := .ack1) (by simp [hs, ackPat]) hlen)
  · simpa [hs, next, vendorCodeNext] using leads (i := .ack3 pl) rfl
      (classify_ackHeader (q := .ack3) (by simp [hs, ackPat, hmode]) hlen)
  · simpa [hs, next, vendorCodeNext] using leads (i := .vack4 pl) rfl
      (classify_ackHeader (q := .vack4) (by simp [hs, ackPat, hmode]) hlen)
  · have hne := classify_vack4_canonical_ne_ack hmode pl
    simpa [hs, next_vendorCode, encode, hne] using leads (i := .vack4 pl) rfl rfl
  · have hne := classify_nakHeader_ne_ack (p := .vendorCode) rfl s.cfg pl
    simpa [hs, next_vendorCode, encode, hne] using leads (i := .nak3 pl) rfl rfl
  · have hq := (isQuery_iff _).2 hquery
    obtain ⟨t, ht, hstate⟩ := leads (i := .ack3 pl) rfl
      (classify_ackHeader (q := .ack3) (query_constants hq s.cfg).2.1 hlen)
    exact ⟨t, ht, by rw [hstate, (next_query hq).1]⟩
  · have hq := (isQuery_iff _).2 hquery
    obtain ⟨-, -, hnak, -⟩ := query_constants hq s.cfg
    obtain ⟨t, ht, hstate⟩ := leads (i := .nak3 pl) rfl (classify_nakHeader (by simp [hnak]) hlen)
    exact ⟨t, ht, by rw [hstate, (next_query hq).2]⟩

/-! ### The instruction a step runs -/

/-- Settles O33: the open receive takes exactly the bytes the tick's answer is cut to. -/
theorem tickIsTransmitThenResponse : Obligations.TickIsTransmitThenResponse := by
  intro s r rest i h hdec
  obtain ⟨hcmd, henc⟩ := encode_of_decodeResponse hdec
  have hfresh : ((s.beginTick.transmit s.state (framelen s.state)).openReceive).rxcnt = 0 := rfl
  have hcut : (r.take (respLen s.cfg s.state)).take (respLen s.cfg s.state) = r.take (respLen s.cfg s.state) := by
    rw [List.take_take, Nat.min_self]
  rw [h.step_eq, ← h.consume_eq, exec_response hcmd, henc,
    respond_of_rx rfl (State.response_of_fresh hfresh) (Nat.zero_le _), State.room_of_fresh hfresh]
  simp only [State.transmitted_eq, hcut, List.nil_append, State.tick, State.answerReceive]
  rfl

theorem fetch_of_response {s : State} {r : List Byte} {rest : List Input} {i : Instr}
    (hin : s.inbox = .response r :: rest) (hp : s.phase = .rx) (hdec : decodeResponse (r.take s.room) = .ok i) :
    fetch s = some i := by
  simp [fetch, hin, hp, hdec, Except.toOption]

/-- R128: an edge at the head of the inputs is sampled. -/
theorem step_of_edge {s : State} {p : PortIn} {rest : List Input} (hin : s.inbox = .edge p :: rest) :
    step s = edge p s.consume := by
  simp [step, fetch, noInstruction, hin]

/-- With no input listed the edge is quiet. -/
theorem step_of_no_input {s : State} (hin : s.inbox = []) : step s = edge (quietPorts s.cfg) s := by
  simp [step, fetch, noInstruction, hin]

/-- Settles O52: by what is fetched. -/
theorem stepRunsTheFetchedInstruction : Obligations.StepRunsTheFetchedInstruction := by
  refine ⟨fun s tx rx rest i h hdec => ?_, fun s r rest i hin hp hdec => step_of_fetch (fetch_of_response hin hp hdec),
    fun s p rest hin => ?_, fun s hin => step_of_no_input hin⟩
  · rw [decodeCommand_frame] at hdec
    cases hdec
    exact step_of_fetch h.fetch_eq
  · rw [step_of_edge hin, State.consume, hin]
    rfl

/-- What a table word decodes to, is a command by its frame or a response by its bytes. -/
theorem decode_eq_ok {bs : List Byte} {i : Instr} (h : decode bs = .ok i) :
    (∃ p, i = Instr.ofState p) ∨ decodeResponse bs = .ok i := by
  unfold decode at h
  split at h
  · rename_i j hj
    cases h
    obtain ⟨p, -, hi⟩ := decodeCommand_eq_ok hj
    exact .inl ⟨p, hi⟩
  · exact .inr h

theorem decode_of_decodeTableWord {nbits w : Nat} {i : Instr} (h : decodeTableWord nbits w = some i) :
    decode (tableBytes nbits w) = .ok i := by
  unfold decodeTableWord at h
  split at h
  · split at h
    · rename_i j hj
      cases h
      exact hj
    · cases h
  · cases h

/-- A response is placed where the open receive takes all of it. -/
theorem fetch_placeResponse {r : List Byte} {i : Instr} (hdec : decodeResponse r = .ok i) (s : State) :
    fetch (s.placeResponse r) = some i := by
  have hlen := length_le_of_decodeResponse hdec
  unfold State.placeResponse
  split
  · rename_i hfit
    exact fetch_of_response rfl rfl ((congrArg decodeResponse (List.take_of_length_le hfit)).trans hdec)
  · exact fetch_of_response rfl rfl ((congrArg decodeResponse (List.take_of_length_le hlen)).trans hdec)

/-- Settles O53: the placed state fetches the instruction. -/
theorem aPlacedWordIsTheNextInstruction : Obligations.APlacedWordIsTheNextInstruction := by
  intro s nbits w i hword
  refine step_of_fetch ?_
  simp only [State.withFetchWord, hword]
  rcases decode_eq_ok (decode_of_decodeTableWord hword) with ⟨p, rfl⟩ | hdec
  · have hreq : Requested (s.placeCommand p) .ok (.ok []) s.inbox := ⟨rfl, rfl, rfl⟩
    simp only [State.placeInstr, command_ofState]
    exact hreq.fetch_eq
  · have hcmd := (encode_of_decodeResponse hdec).1
    simpa [State.placeInstr, hcmd] using fetch_placeResponse hdec s

end Sys2Proof.Machine
end

section
/-! Proofs of the statements about whole ticks one after another: what a tick depends on (R7, R34, R110) and how a session
goes on under a premise about its answers (R115, R118, R179). -/

namespace Sys2Proof.Machine

/-! ### What a tick depends on -/

/-- The same block strapped to the vendor mode `m`. -/
def State.withVendorMode (m : VendorMode) (s : State) : State := { s with cfg := { s.cfg with vendorMode := m } }

section VendorMode

variable {p : ProtoState} (hp : p ≠ .vendorCode) (cfg : Config) (m : VendorMode)

include hp

theorem respLen_vendorMode : respLen { cfg with vendorMode := m } p = respLen cfg p := by
  cases p with
  | vendorCode => exact absurd rfl hp
  | _ => rfl

theorem ackPat_vendorMode : ackPat { cfg with vendorMode := m } p = ackPat cfg p := by
  cases p with
  | vendorCode => exact absurd rfl hp
  | _ => rfl

theorem minLen_vendorMode : minLen { cfg with vendorMode := m } p = minLen cfg p := by
  simp only [minLen, extent, ackPat_vendorMode hp, respLen_vendorMode hp]

theorem classify_vendorMode (r : List Byte) : classify { cfg with vendorMode := m } p r = classify cfg p r := by
  simp only [classify, minLen_vendorMode hp, ackPat_vendorMode hp]

theorem tickReport_vendorMode (r : List Byte) : tickReport { cfg with vendorMode := m } p r = tickReport cfg p r := by
  simp only [tickReport, shortRead, classify_vendorMode hp, respLen_vendorMode hp]

theorem State.tick_withVendorMode (tx : TxAnswer) (rx : RxAnswer) (s : State) :
    (s.withVendorMode m).tick p tx rx = (s.tick p tx rx).withVendorMode m := by
  cases tx with
  | error k => rfl
  | ok =>
    cases rx with
    | error got => simp only [State.tick_receive_error, State.withVendorMode, respLen_vendorMode hp]
    | ok r =>
      simp only [State.tick_ok, State.withVendorMode, respLen_vendorMode hp, classify_vendorMode hp,
        tickReport_vendorMode hp]

end VendorMode

/-- Settles O54: outside VendorCode no operand of a tick looks at the vendor mode. -/
theorem vendorModeMattersOnlyAtVendorCode : Obligations.VendorModeMattersOnlyAtVendorCode := by
  intro s tx rx rest m h hp
  have h' : Requested (s.withVendorMode m) tx rx rest := h
  exact ⟨_, h.step_eq, h'.step_eq.trans (congrArg _ (State.tick_withVendorMode hp m tx rx { s with inbox := rest }))⟩

/-- Settles O55: every register a tick reads it has set itself. -/
theorem workingRegistersDoNotReachTheNextTick : Obligations.WorkingRegistersDoNotReachTheNextTick := by
  intro s₁ s₂ tx rx rest₁ rest₂ h₁ h₂ hstate hcfg
  have hstep₂ := h₂.step_eq
  rw [← hstate] at hstep₂
  cases tx with
  | error k =>
    exact ⟨_, _, (frame s₁.state).take (min k (oplen s₁.state)), h₁.step_eq, hstep₂, rfl, rfl, fun _ => rfl, rfl,
      by simp only [State.tick_response, hcfg], rfl, rfl, rfl⟩
  | ok =>
    cases rx with
    | error got =>
      refine ⟨_, _, (frame s₁.state).take (framelen s₁.state), h₁.step_eq, hstep₂, rfl, rfl, fun _ => rfl, ?_, ?_,
        rfl, rfl, rfl⟩
      · simp only [State.tick_rxcnt, hcfg]
      · simp only [State.tick_response, hcfg]
    | ok r =>
      refine ⟨_, _, (frame s₁.state).take (framelen s₁.state), h₁.step_eq, hstep₂, ?_, h₁.2.2.trans h₂.2.2.symm,
        fun hf => ?_, ?_, ?_, ?_, rfl, rfl⟩
      · simp only [State.tick_ok, hcfg]
      · simp [State.tick_ok, h₁.2.2] at hf
      · simp only [State.tick_rxcnt, hcfg]
      · simp only [State.tick_response, hcfg]
      · simp only [State.tick_ok, hcfg]

/-! ### Ticks one after another -/

/-- The block can run a tick, and the host asks for one tick for each answer of `rs`, after which `rest` comes. -/
structure AskedFor (s : State) (rs : List (List Byte)) (rest : List Input) : Prop where
  phase : s.phase = .idle
  fault : s.fault = false
  inbox : s.inbox = rs.map (fun r => .tick .ok (.ok r)) ++ rest

theorem runSteps_succ_of_next {s t : State} (h : step s = .next t) (n : Nat) : runSteps (n + 1) s = runSteps n t := by
  simp [runSteps, h]

/-- The first of the ticks asked for, and what it leaves for the others. -/
theorem AskedFor.step {s : State} {r : List Byte} {rs : List (List Byte)} {rest : List Input}
    (h : AskedFor s (r :: rs) rest) :
    ∃ t, step s = .next t ∧ AskedFor t rs rest ∧ t.cfg = s.cfg ∧
      t.state = next s.state (classify s.cfg s.state (r.take (respLen s.cfg s.state))) ∧
      t.wireTx = s.wireTx ++ frame s.state ∧
      t.report = some (tickReport s.cfg s.state (r.take (respLen s.cfg s.state))) := by
  have hreq : Requested s .ok (.ok r) (rs.map (fun r => .tick .ok (.ok r)) ++ rest) := ⟨h.inbox, h.phase, h.fault⟩
  refine ⟨_, hreq.step_eq, ?_⟩
  rw [State.tick_ok]
  exact ⟨⟨rfl, h.fault, rfl⟩, rfl, rfl, rfl, rfl⟩

/-- R179: a state whose answers all lead back to it is polled for as long as the host asks. -/
theorem AskedFor.stays {rs : List (List Byte)} {s : State} {rest : List Input} (h : AskedFor s rs rest)
    (hstay : ∀ r ∈ rs, next s.state (classify s.cfg s.state (r.take (respLen s.cfg s.state))) = s.state) :
    ∃ t, runSteps rs.length s = .next t ∧ AskedFor t [] rest ∧ t.state = s.state ∧
      t.wireTx = s.wireTx ++ (List.replicate rs.length (frame s.state)).flatten ∧
      (rs ≠ [] → ∃ r ∈ rs, t.report = some (tickReport s.cfg s.state (r.take (respLen s.cfg s.state)))) := by
  induction rs generalizing s with
  | nil => exact ⟨s, rfl, h, rfl, by simp, fun hne => absurd rfl hne⟩
  | cons r rs ih =>
    obtain ⟨u, hu, hasked, hcfg, hstate, hwire, hrep⟩ := h.step
    rw [hstay r List.mem_cons_self] at hstate
    obtain ⟨t, ht, hdone, hstate', hwire', hrep'⟩ :=
      ih hasked (by rw [hcfg, hstate]; exact fun r' hr' => hstay r' (List.mem_cons_of_mem _ hr'))
    refine ⟨t, (runSteps_succ_of_next hu _).trans ht, hdone, hstate'.trans hstate, ?_, fun _ => ?_⟩
    · rw [hwire', hwire, hstate, List.length_cons, List.replicate_succ, List.flatten_cons, List.append_assoc]
    · rcases rs with _ | ⟨r', rs⟩
      · cases ht
        exact ⟨r, List.mem_cons_self, hrep⟩
      · obtain ⟨r'', hr'', hrep''⟩ := hrep' (by simp)
        rw [hcfg, hstate] at hrep''
        exact ⟨r'', List.mem_cons_of_mem _ hr'', hrep''⟩

/-- Twelve bytes and more that begin 06 0A 14. -/
def FullAck (r : List Byte) : Prop := 12 ≤ r.length ∧ r.take 3 = [0x06, 0x0A, 0x14]

/-- Where the ack header is not the long one of `LEGACY23`, it is some first part of 06 0A 14, and the state asks for at
most twelve bytes. -/
theorem ackHeader_isPrefix {cfg : Config} {p : ProtoState} (h : ackPat cfg p ≠ .vack4) :
    (ackPat cfg p).header <+: [0x06, 0x0A, 0x14] ∧ respLen cfg p ≤ 12 := by
  cases p with
  | vendorCode =>
    cases hmode : cfg.vendorMode with
    | canonical12 => simp [ackPat, respLen, Pattern.header, hmode]
    | legacy23 => simp [ackPat, hmode] at h
  | _ => simp [ackPat, respLen, Pattern.header]

/-- In such a state a full acknowledgement is an Ack. -/
theorem FullAck.classify_eq {r : List Byte} (h : FullAck r) {cfg : Config} {p : ProtoState}
    (hpat : ackPat cfg p ≠ .vack4) : classify cfg p (r.take (respLen cfg p)) = .ack := by
  obtain ⟨hlen, hheader⟩ := h
  obtain ⟨hprefix, hask⟩ := ackHeader_isPrefix hpat
  refine classify_eq_ack_iff.2 ⟨minLen_le_length_take ((minLen_le_respLen cfg p).trans (hask.trans hlen)), ?_⟩
  have hthree := List.prefix_iff_eq_take.1 hprefix
  rw [← hheader, List.take_take, Nat.min_eq_left (by simpa using hprefix.length_le)] at hthree
  rw [List.take_take, Nat.min_eq_left ((ackPat_header_length_le cfg p).trans (four_le_respLen cfg p)), ← hthree]

/-- Settles O56: PartNumber acknowledged is its own successor. -/
theorem partNumberKeepsPolling : Obligations.PartNumberKeepsPolling := by
  intro rs s rest hs hp hf hin hack
  have hclass (r : List Byte) (hr : r ∈ rs) : classify s.cfg s.state (r.take (respLen s.cfg s.state)) = .ack :=
    FullAck.classify_eq (hack r hr) (by simp [hs, ackPat])
  obtain ⟨t, ht, hdone, hstate, hwire, hrep⟩ :=
    AskedFor.stays ⟨hp, hf, hin⟩ (fun r hr => by rw [hclass r hr, hs]; rfl)
  refine ⟨t, ht, hstate.trans hs, hdone.phase, hdone.fault, hdone.inbox, hs ▸ hwire, fun hne => ?_⟩
  obtain ⟨r, hr, hrep⟩ := hrep hne
  refine ⟨_, hrep, decide_eq_true ⟨hs, hclass r hr⟩, decide_eq_false ?_⟩
  rw [hclass r hr, hs]
  exact not_not_intro rfl

/-- Settles O57: without an Ack neither state has a way on. -/
theorem retriesAreUnbounded : Obligations.RetriesAreUnbounded := by
  intro rs s rest hs hp hf hin hack
  have hnext (c : Classification) (hc : c ≠ .ack) : next s.state c = s.state := by
    rcases hs with hs | hs <;> rw [hs]
    · cases c <;> simp_all [next, getIntervalNext]
    · rw [next_vendorCode, if_neg hc]
  obtain ⟨t, ht, hdone, hstate, hwire, -⟩ :=
    AskedFor.stays ⟨hp, hf, hin⟩ (fun r hr => hnext _ (hack r hr))
  exact ⟨t, ht, hstate, hdone.phase, hdone.fault, hdone.inbox, hwire⟩

theorem next_ack_code {p : ProtoState} (h : p.code.toNat < 7) : (next p .ack).code.toNat = p.code.toNat + 1 := by
  cases p with
  | partNumber => exact absurd h (by decide)
  | _ => decide

theorem eq_partNumber_of_code {p : ProtoState} (h : 7 ≤ p.code.toNat) : p = .partNumber := by
  cases p with
  | partNumber => rfl
  | _ => exact absurd h (by decide)

/-- Settles O58: by induction on the answers, each of which leads one state on. -/
theorem acknowledgedSessionReachesPartNumber : Obligations.AcknowledgedSessionReachesPartNumber := by
  intro rs s rest hmode hp hf hin hack hlen
  have h : AskedFor s rs rest := ⟨hp, hf, hin⟩
  clear hp hf hin
  induction rs generalizing s with
  | nil =>
    have hcode : 7 ≤ s.state.code.toNat := Nat.le_of_sub_eq_zero hlen.symm
    exact ⟨s, rfl, eq_partNumber_of_code hcode, h.phase, h.fault, h.inbox⟩
  | cons r rs ih =>
    rw [List.length_cons] at hlen
    obtain ⟨u, hu, hasked, hcfg, hstate, -, -⟩ := h.step
    have hpat : ackPat s.cfg s.state ≠ .vack4 := by cases hs : s.state <;> simp [ackPat, hmode]
    rw [FullAck.classify_eq (hack r List.mem_cons_self) hpat] at hstate
    have hcode := next_ack_code (p := s.state) (by omega)
    obtain ⟨t, ht, hend⟩ := ih u (hcfg ▸ hmode) (fun r' hr' => hack r' (List.mem_cons_of_mem _ hr'))
      (by rw [hstate, hcode]; omega) hasked
    exact ⟨t, (runSteps_succ_of_next hu _).trans ht, hend⟩

end Sys2Proof.Machine
end

section
/-! Proofs of the clock-edge statements: phase TX (R130), phase RX (R132, R133), DECIDE (R134), reset (R136) and the wait
of an open receive (R180). -/

namespace Sys2Proof.Machine

/-- Settles O35: under the invariant the byte offered is the frame's at `TXIDX`. -/
theorem transmitEdgeHandsOverTheFrame : Obligations.TransmitEdgeHandsOverTheFrame := by
  intro p s h hsteady hp herr
  obtain ⟨hidx, hsum, -⟩ := h.sending hp
  obtain ⟨b, hframe, hb⟩ := State.txByte_of_sum hidx hsum
  have hsucc := sum8_take_succ hframe
  rw [← hsum] at hsucc
  refine ⟨by simp [State.ports, hp], by simp [State.ports, hp, hb, hframe, Except.toOption],
    by simp [State.ports, hp], fun hready => ?_, fun hready => ⟨b, hframe, ?_⟩⟩
  · rw [edge_of_tx hsteady hp, edgeTx_of_not_txReady herr hready]
    rfl
  · rw [edge_of_tx hsteady hp, edgeTx_of_txReady herr hready hb, hsucc]
    rcases s.transferByte_cases b with ⟨hlast, ht⟩ | ⟨hne, ht⟩ <;> rw [ht]
    · simp only [if_pos hlast]
    · simp only [if_neg hne, ← hp]

/-- R132: one byte accepted. -/
theorem State.acceptOffered_eq (p : PortIn) (s : State) :
    s.acceptOffered p =
      { s with
        rxbuf := if p.rxValid = true ∧ s.rxcnt.toNat < respLen s.cfg s.state then
          s.rxbuf.write s.rxcnt.toNat p.rxData else s.rxbuf
        rxcnt := if p.rxValid = true ∧ s.rxcnt.toNat < respLen s.cfg s.state then s.rxcnt + 1 else s.rxcnt } := by
  rcases s.acceptOffered_cases p with ⟨hv, hlt, h⟩ | ⟨hno, h⟩ <;> rw [h]
  · simp only [if_pos (And.intro hv hlt)]
    rfl
  · simp only [if_neg hno]

/-- R133: the receive ends or stays open. -/
theorem State.endReceive_eq {s : State} (hp : s.phase = .rx) (done : Bool) :
    s.endReceive done =
      { s with
        phase := if done = true ∨ s.rxcnt.toNat = respLen s.cfg s.state then .decide else .rx, report := none } := by
  rcases s.endReceive_cases done with ⟨hend, h⟩ | ⟨hdone, hne, h⟩ <;> rw [h]
  · simp only [if_pos hend]
  · have hstay : ¬(done = true ∨ s.rxcnt.toNat = respLen s.cfg s.state) := by simp [hdone, hne]
    simp only [if_neg hstay, ← hp]
    rfl

/-- Settles O36: the byte is stored before the end of the receive is looked at. -/
theorem receiveEdgeStoresAndEnds : Obligations.ReceiveEdgeStoresAndEnds := by
  intro p s cnt hsteady hp herr hcnt
  have hbound : respLen s.cfg s.state < 2 ^ 5 := (respLen_le _ _).trans_lt (by decide)
  refine ⟨by simp [State.ports, hp], ?_, ?_⟩
  · show (BitVec.ofNat 5 (respLen s.cfg s.state)).toNat = _
    rw [BitVec.toNat_ofNat, Nat.mod_eq_of_lt hbound]
  · rw [edge_of_rx hsteady hp, edgeRx_of_not_tpError herr, State.acceptOffered_eq, ← hcnt,
      State.endReceive_eq (s := { s with rxbuf := _, rxcnt := cnt }) hp]

theorem State.deciding_of_response {s : State} {r : List Byte} (hp : s.phase = .decide) (hr : s.response = .ok r) :
    s.deciding = some (tickReport s.cfg s.state r) := by simp [State.deciding, hp, hr]

theorem State.deciding_of_not_decide {s : State} (hp : s.phase ≠ .decide) : s.deciding = none := by
  simp [State.deciding, hp]

/-- Settles O37: the ports show the report that the edge then writes. -/
theorem decideCycleShowsTheOutputsAndWritesState : Obligations.DecideCycleShowsTheOutputsAndWritesState := by
  constructor
  · rintro p s r c q hsteady hp hr rfl rfl
    have hedge : edge p s = .next (s.decideTick s.state r) := by
      rw [edge_of_decide hsteady hp, edgeDecide_of_response hr]
    have hport {α : Type} (f : TickReport → α) : s.deciding.map f = some (f (tickReport s.cfg s.state r)) := by
      rw [State.deciding_of_response hp hr, Option.map_some]
    have hreset (c : Classification) : protoReset s.state c = decide (3 ≤ s.state.code.toNat ∧ c = .nak) := by
      simp only [protoReset, isQuery_iff]
    exact ⟨by simp [State.ports, hp], hport _, hport _, hport _, hport _, hport _, hport _,
      (hport _).trans (congrArg some (hreset _)), _, hedge, rfl, rfl, rfl, rfl, rfl, rfl, rfl, rfl, rfl, rfl⟩
  · intro s hp
    simp [State.ports, State.deciding_of_not_decide hp, hp]

/-- The byte a reset edge in phase TX may still hand over. -/
theorem State.takenAtReset_eq (p : PortIn) (s : State) :
    ∃ w : List Byte, s.takenAtReset p = { s with wireTx := s.wireTx ++ w } ∧
      (w = [] ∨ (s.phase = .tx ∧ p.txReady = true ∧ p.tpError = false ∧ ∃ b, s.txByte = .ok b ∧ w = [b])) := by
  unfold State.takenAtReset
  split
  · rename_i h
    simp only [Bool.and_eq_true, decide_eq_true_eq, Bool.not_eq_true'] at h
    obtain ⟨⟨hp, hready⟩, herr⟩ := h
    split
    · exact ⟨[], by simp, .inl rfl⟩
    · exact ⟨_, rfl, .inr ⟨hp, hready, herr, _, ‹_›, rfl⟩⟩
  · exact ⟨[], by simp, .inl rfl⟩

/-- Settles O39: nothing but the wire is looked at. -/
theorem resetEdgeWinsOverEverything : Obligations.ResetEdgeWinsOverEverything := by
  intro p s hrst
  obtain ⟨w, htaken, hw⟩ := s.takenAtReset_eq p
  refine ⟨w, hw, ?_, fun t ht => ?_⟩
  · rw [edge_of_rst hrst, htaken]
    rfl
  · rw [edge_of_rst hrst] at ht
    cases ht
    exact ⟨rfl, rfl, rfl, rfl, rfl, rfl⟩

/-- R180: without an input an open receive that wants a byte stays open. -/
theorem step_of_waiting {s : State} (hp : s.phase = .rx) (hin : s.inbox = [])
    (hcnt : s.rxcnt.toNat < respLen s.cfg s.state) : step s = .next s.hold := by
  rw [step_of_no_input hin, edge_of_rx (quietPorts_steady _) hp, edgeRx_of_not_tpError rfl]
  rcases s.acceptOffered_cases (quietPorts s.cfg) with ⟨hv, -⟩ | ⟨-, ht⟩
  · simp [quietPorts] at hv
  rcases s.endReceive_cases (quietPorts s.cfg).rxDone with ⟨hend, -⟩ | ⟨-, -, he⟩
  · exact absurd hend (not_or.2 ⟨by simp [quietPorts], hcnt.ne⟩)
  rw [ht, he]

/-- Settles O44: by induction on the number of steps. -/
theorem anOpenReceiveWaitsForEver : Obligations.AnOpenReceiveWaitsForEver := by
  intro n s hp hin hcnt
  rw [runSteps_succ_of_next (step_of_waiting hp hin hcnt)]
  induction n with
  | zero => rfl
  | succ n ih => rw [runSteps_succ_of_next (step_of_waiting (s := s.hold) hp hin hcnt)]; exact ih

end Sys2Proof.Machine
end

section
/-! Proofs of the refinement statements (R137, R180, R184): the stages a tick runs through edge by edge, the tick that
each way of ending it makes, and the runs that lead there. -/

namespace Sys2Proof.Machine

/-! ### The stages of a tick -/

/-- `s` runs its tick: `k` bytes of the frame are out. -/
def State.sending (s : State) (k : Nat) : State := s.beginTick.transmit s.state k

/-- `s` runs its tick: the frame is out and the bytes `r` are in. -/
def State.receiving (s : State) (r : List Byte) : State :=
  ((s.beginTick.transmit s.state (framelen s.state)).openReceive).accept r

/-- `s` runs its tick: the receive has ended with the bytes `r`. -/
def State.judging (s : State) (r : List Byte) : State := { s.receiving r with phase := .decide }

@[simp] theorem State.receiving_cfg (s : State) (r : List Byte) : (s.receiving r).cfg = s.cfg := rfl
@[simp] theorem State.receiving_state (s : State) (r : List Byte) : (s.receiving r).state = s.state := rfl

theorem State.sending_zero (s : State) : s.sending 0 = s.beginTick := by
  simp [State.sending, State.transmit, State.beginTick, sum8]

theorem State.sending_txidx_toNat {s : State} {k : Nat} (hk : k ≤ oplen s.state) : (s.sending k).txidx.toNat = k := by
  have hbound := oplen_le s.state
  show (BitVec.ofNat 4 (min k (oplen s.state))).toNat = k
  rw [Nat.min_eq_left hk, BitVec.toNat_ofNat, Nat.mod_eq_of_lt (by omega)]

theorem State.sending_txByte {s : State} {k : Nat} (hk : k ≤ oplen s.state) :
    ∃ b, (frame s.state)[k]? = some b ∧ (s.sending k).txByte = .ok b := by
  have hidx := State.sending_txidx_toNat hk
  have hsum : (s.sending k).ckacc = sum8 ((frame s.state).take k) := BitVec.zero_add _
  have hbyte := State.txByte_of_sum (s := s.sending k) (hidx.symm ▸ hk) (by rw [hidx]; exact hsum)
  rw [hidx] at hbyte
  exact hbyte

/-- The byte handed over takes the tick one byte further. -/
theorem State.sending_transferByte {s : State} {k : Nat} {b : Byte} (hb : (frame s.state)[k]? = some b)
    (hk : k < oplen s.state) : (s.sending k).transferByte b = s.sending (k + 1) := by
  have hidx := State.sending_txidx_toNat hk.le
  rcases (s.sending k).transferByte_cases b with ⟨hlast, -⟩ | ⟨-, ht⟩
  · exact absurd (hidx.symm.trans hlast) hk.ne
  · have hmin : min (k + 1) (oplen s.state) = min k (oplen s.state) + 1 := by omega
    rw [ht]
    simp [State.sending, State.transmit, State.beginTick, List.take_add_one, hb, sum8_append_singleton, hmin,
      BitVec.ofNat_add]

/-- With the checksum byte the receive opens. -/
theorem State.sending_transferByte_last {s : State} {b : Byte} (hb : (frame s.state)[oplen s.state]? = some b) :
    (s.sending (oplen s.state)).transferByte b = s.receiving [] := by
  have hidx := State.sending_txidx_toNat (s := s) le_rfl
  rcases (s.sending (oplen s.state)).transferByte_cases b with ⟨-, ht⟩ | ⟨hne, -⟩
  · rw [ht]
    simp [State.sending, State.receiving, State.transmit, State.beginTick, State.openReceive, State.accept, framelen,
      List.take_add_one, hb, sum8_append_singleton, Memory.writeBytes]
  · exact absurd hidx hne

theorem State.receiving_response {s : State} {r : List Byte} (hr : r.length ≤ respLen s.cfg s.state) :
    (s.receiving r).response = .ok r :=
  (State.response_accept_fresh rfl (hr.trans (respLen_le _ _))).1

theorem State.receiving_rxcnt_toNat {s : State} {r : List Byte} (hr : r.length ≤ respLen s.cfg s.state) :
    (s.receiving r).rxcnt.toNat = r.length :=
  (State.response_accept_fresh rfl (hr.trans (respLen_le _ _))).2

theorem State.receiving_accept {s : State} {r : List Byte} (hr : r.length ≤ respLen s.cfg s.state) (bs : List Byte) :
    (s.receiving r).accept bs = s.receiving (r ++ bs) := by
  have hcnt := State.receiving_rxcnt_toNat hr
  simp only [State.accept, hcnt]
  simp [State.receiving, State.accept, State.openReceive, Memory.writeBytes_append, BitVec.ofNat_add]

/-! ### The edges of a tick -/

/-- The byte an open receive is given at an edge, if any. -/
def PortIn.offered (p : PortIn) : List Byte := if p.rxValid then [p.rxData] else []

theorem length_append_offered_le (p : PortIn) {r : List Byte} {L : Nat} (hr : r.length < L) :
    (r ++ p.offered).length ≤ L := by
  unfold PortIn.offered
  split <;> simp <;> omega

section Edges

variable {s : State} {p : PortIn} (hp : p.steady s.cfg)

include hp

theorem edge_sending_tpError {k : Nat} (hk : k ≤ oplen s.state) (herr : p.tpError = true) (rx : RxAnswer) :
    edge p (s.sending k) = .next (s.tick s.state (.error k) rx) := by
  rw [edge_of_tx (s := s.sending k) hp rfl, edgeTx_of_tpError herr, State.tick, Nat.min_eq_left hk, State.sending]

theorem edge_sending_wait (k : Nat) (herr : p.tpError = false) (hready : p.txReady = false) :
    edge p (s.sending k) = .next (s.sending k) := by
  rw [edge_of_tx (s := s.sending k) hp rfl, edgeTx_of_not_txReady herr hready]
  rfl

theorem edge_sending {k : Nat} (hk : k < oplen s.state) (herr : p.tpError = false) (hready : p.txReady = true) :
    edge p (s.sending k) = .next (s.sending (k + 1)) := by
  obtain ⟨b, hframe, hb⟩ := State.sending_txByte hk.le
  rw [edge_of_tx (s := s.sending k) hp rfl, edgeTx_of_txReady herr hready hb, State.sending_transferByte hframe hk]

theorem edge_sending_last (herr : p.tpError = false) (hready : p.txReady = true) :
    edge p (s.sending (oplen s.state)) = .next (s.receiving []) := by
  obtain ⟨b, hframe, hb⟩ := State.sending_txByte (s := s) le_rfl
  rw [edge_of_tx (s := s.sending _) hp rfl, edgeTx_of_txReady herr hready hb, State.sending_transferByte_last hframe]

theorem edge_receiving_tpError {r : List Byte} (hr : r.length < respLen s.cfg s.state) (herr : p.tpError = true) :
    edge p (s.receiving r) = .next (s.tick s.state .ok (.error r)) := by
  have hcut : r.take (respLen s.cfg s.state - 1) = r := List.take_of_length_le (by omega)
  rw [edge_of_rx (s := s.receiving r) hp rfl, edgeRx_of_tpError herr]
  simp only [State.tick, State.answerReceive, State.openReceive_cfg, State.transmit_cfg, State.beginTick_cfg, hcut]
  rfl

/-- R132, R133: the byte is stored first, then the receive ends or stays open. -/
theorem edge_receiving {r : List Byte} (hr : r.length < respLen s.cfg s.state) (herr : p.tpError = false) :
    edge p (s.receiving r) = .next
      (if p.rxDone = true ∨ (r ++ p.offered).length = respLen s.cfg s.state then s.judging (r ++ p.offered)
       else s.receiving (r ++ p.offered)) := by
  have hcnt := State.receiving_rxcnt_toNat hr.le
  have hoffered : (s.receiving r).acceptOffered p = s.receiving (r ++ p.offered) := by
    rcases (s.receiving r).acceptOffered_cases p with ⟨hvalid, -, ht⟩ | ⟨hnot, ht⟩ <;> rw [ht, PortIn.offered]
    · rw [if_pos hvalid, State.receiving_accept hr.le]
    · have hinvalid : p.rxValid ≠ true := fun hvalid => hnot ⟨hvalid, by rw [hcnt]; exact hr⟩
      rw [if_neg hinvalid, List.append_nil]
  have hfit := length_append_offered_le p hr
  rw [edge_of_rx (s := s.receiving r) hp rfl, edgeRx_of_not_tpError herr, hoffered,
    State.endReceive_eq (s := s.receiving _) rfl, State.receiving_rxcnt_toNat hfit,
    State.receiving_cfg, State.receiving_state]
  by_cases hend : p.rxDone = true ∨ (r ++ p.offered).length = respLen s.cfg s.state
  · rw [if_pos hend, if_pos hend]
    rfl
  · rw [if_neg hend, if_neg hend]
    rfl

theorem edge_judging {r : List Byte} (hr : r.length ≤ respLen s.cfg s.state) :
    edge p (s.judging r) = .next (s.tick s.state .ok (.ok r)) := by
  have hresp : (s.judging r).response = .ok r := State.response_congr (State.receiving_response hr) rfl rfl
  rw [edge_of_decide (s := s.judging r) hp rfl, edgeDecide_of_response hresp]
  simp only [State.tick, State.answerReceive, State.openReceive_cfg, State.transmit_cfg, State.beginTick_cfg,
    List.take_of_length_le hr]
  rfl

end Edges

/-! ### A run of edges is a tick -/

/-- A tick of `s` still runs, `n` edges after the one that started it, in the state the stage names. -/
inductive TickStage (s : State) (n : Nat) : State → Prop where
  | sending (k : Nat) (hk : k ≤ oplen s.state) (hn : k ≤ n) : TickStage s n (s.sending k)
  | receiving (r : List Byte) (hr : r.length < respLen s.cfg s.state) (hn : framelen s.state ≤ n) :
      TickStage s n (s.receiving r)
  | judging (r : List Byte) (hr : r.length ≤ respLen s.cfg s.state) (hn : framelen s.state + 1 ≤ n) :
      TickStage s n (s.judging r)

/-- A tick of `s` has ended in `t`, `n` edges after the one that started it (R137, R184). -/
structure TickEnd (s : State) (n : Nat) (t : State) : Prop where
  phase : t.phase = .idle
  isTick : ∃ r, t.response = .ok r ∧ t = s.tick s.state (txOfRun s t) (rxOfRun r t)
  length : t.fault = false → framelen s.state + 2 ≤ n

theorem TickStage.phase_ne_idle {s u : State} {n : Nat} (h : TickStage s n u) : u.phase ≠ .idle := by
  cases h with
  | sending k _ _ => exact fun hp => by cases hp
  | receiving r _ _ => exact fun hp => by cases hp
  | judging r _ _ => exact fun hp => by cases hp

theorem tickEnd_transmit_error {s : State} {k : Nat} (hk : k ≤ oplen s.state) (n : Nat) :
    TickEnd s n (s.tick s.state (.error k) (.error [])) where
  phase := rfl
  isTick := by
    have htx : txOfRun s (s.tick s.state (.error k) (.error [])) = .error k := by
      have hframe : k ≤ (frame s.state).length := by rw [frame_length, framelen]; omega
      simp [txOfRun, State.tick_transmit_error, Nat.min_eq_left hk, Nat.min_eq_left hframe]
    exact ⟨_, State.tick_response _ _ _ _, by rw [htx]; rfl⟩
  length hf := by simp [State.tick_transmit_error] at hf

theorem tickEnd_receive_error {s : State} {r : List Byte} (hr : r.length < respLen s.cfg s.state) (n : Nat) :
    TickEnd s n (s.tick s.state .ok (.error r)) where
  phase := rfl
  isTick := by
    have hcut : r.take (respLen s.cfg s.state - 1) = r := List.take_of_length_le (by omega)
    have htx : txOfRun s (s.tick s.state .ok (.error r)) = .ok := by simp [txOfRun, State.tick_receive_error]
    refine ⟨_, State.tick_response _ _ _ _, ?_⟩
    rw [htx, storedByTick, hcut]
    rfl
  length hf := by simp [State.tick_receive_error] at hf

theorem tickEnd_ok {s : State} (hf : s.fault = false) {r : List Byte} (hr : r.length ≤ respLen s.cfg s.state) {n : Nat}
    (hn : framelen s.state + 2 ≤ n) : TickEnd s n (s.tick s.state .ok (.ok r)) where
  phase := rfl
  isTick := by
    have hnoFault : (s.tick s.state .ok (.ok r)).fault = false := hf
    refine ⟨_, State.tick_response _ _ _ _, ?_⟩
    rw [txOfRun, rxOfRun, storedByTick, List.take_of_length_le hr, hnoFault]
    rfl
  length _ := hn

/-- How many edges the tick of `u` needs at most from a transport that never waits. -/
def State.remaining (u : State) : Nat :=
  match u.phase with
  | .idle => 0
  | .tx => respLen u.cfg u.state + 3 + (oplen u.state - u.txidx.toNat)
  | .rx => 2 + (respLen u.cfg u.state - u.rxcnt.toNat)
  | .decide => 1

theorem State.remaining_sending {s : State} {k : Nat} (hk : k ≤ oplen s.state) :
    (s.sending k).remaining = respLen s.cfg s.state + 3 + (oplen s.state - k) := by
  show respLen s.cfg s.state + 3 + (oplen s.state - (s.sending k).txidx.toNat) = _
  rw [State.sending_txidx_toNat hk]

theorem State.remaining_receiving {s : State} {r : List Byte} (hr : r.length ≤ respLen s.cfg s.state) :
    (s.receiving r).remaining = 2 + (respLen s.cfg s.state - r.length) := by
  show 2 + (respLen s.cfg s.state - (s.receiving r).rxcnt.toNat) = _
  rw [State.receiving_rxcnt_toNat hr]

/-- The transport keeps the block waiting at this edge (R180). -/
def Waits (p : PortIn) (u : State) : Prop :=
  p.tpError = false ∧
    ((u.phase = .tx ∧ p.txReady = false) ∨ (u.phase = .rx ∧ p.rxValid = false ∧ p.rxDone = false))

/-- What one edge does to a running tick: it ends it, or brings it nearer to its end, or waits. -/
theorem TickStage.edge {s u : State} {n : Nat} (h : TickStage s n u) (hf : s.fault = false) {p : PortIn}
    (hp : p.steady s.cfg) :
    ∃ v, edge p u = .next v ∧
      (TickEnd s (n + 1) v ∨
        (TickStage s (n + 1) v ∧ (v.remaining < u.remaining ∨ (v = u ∧ Waits p u)))) := by
  have herr (h : p.tpError ≠ true) : p.tpError = false := Bool.eq_false_iff.2 h
  cases h with
  | sending k hk hn =>
    by_cases he : p.tpError = true
    · exact ⟨_, edge_sending_tpError hp hk he _, .inl (tickEnd_transmit_error hk _)⟩
    by_cases hready : p.txReady = true
    · rcases hk.eq_or_lt with rfl | hlt
      · have hwant : ([] : List Byte).length < respLen s.cfg s.state := (four_le_respLen _ _).trans_lt' (by simp)
        refine ⟨_, edge_sending_last hp (herr he) hready, .inr ⟨.receiving [] hwant (by rw [framelen]; omega), .inl ?_⟩⟩
        rw [State.remaining_sending le_rfl, State.remaining_receiving hwant.le]
        simp
        omega
      · refine ⟨_, edge_sending hp hlt (herr he) hready, .inr ⟨.sending (k + 1) hlt (by omega), .inl ?_⟩⟩
        rw [State.remaining_sending hlt.le, State.remaining_sending hlt]
        omega
    · have hwait : p.txReady = false := Bool.eq_false_iff.2 hready
      exact ⟨_, edge_sending_wait hp k (herr he) hwait,
        .inr ⟨.sending k hk (by omega), .inr ⟨rfl, herr he, .inl ⟨rfl, hwait⟩⟩⟩⟩
  | receiving r hr hn =>
    by_cases he : p.tpError = true
    · exact ⟨_, edge_receiving_tpError hp hr he, .inl (tickEnd_receive_error hr _)⟩
    have hedge := edge_receiving hp hr (herr he)
    have hfit := length_append_offered_le p hr
    by_cases hend : p.rxDone = true ∨ (r ++ p.offered).length = respLen s.cfg s.state
    · rw [if_pos hend] at hedge
      refine ⟨_, hedge, .inr ⟨.judging _ hfit (by omega), .inl ?_⟩⟩
      rw [State.remaining_receiving hr.le]
      show 1 < _
      omega
    · rw [if_neg hend] at hedge
      obtain ⟨hdone, hmore⟩ := not_or.1 hend
      have hwant : (r ++ p.offered).length < respLen s.cfg s.state := Nat.lt_of_le_of_ne hfit hmore
      refine ⟨_, hedge, .inr ⟨.receiving _ hwant (by omega), ?_⟩⟩
      rw [State.remaining_receiving hr.le, State.remaining_receiving hwant.le]
      by_cases hvalid : p.rxValid = true
      · have hgrown : (r ++ p.offered).length = r.length + 1 := by simp [PortIn.offered, hvalid]
        exact .inl (by omega)
      · have hnone : r ++ p.offered = r := by simp [PortIn.offered, hvalid]
        exact .inr ⟨by rw [hnone], herr he, .inr ⟨rfl, Bool.eq_false_iff.2 hvalid, Bool.eq_false_iff.2 hdone⟩⟩
  | judging r hr hn => exact ⟨_, edge_judging hp hr, .inl (tickEnd_ok hf hr (by omega))⟩

/-- R137: a run of edges that takes a running tick to idle ends it. -/
theorem TickStage.run {s : State} (hf : s.fault = false) {ps : List PortIn} {u t : State} {n : Nat}
    (h : TickStage s n u) (hps : ∀ p ∈ ps, p.steady s.cfg) (hrun : runEdges ps u = .next t) (hidle : t.phase = .idle)
    (hbusy : ∀ m < ps.length, ∀ v, runEdges (ps.take m) u = .next v → v.phase ≠ .idle) :
    TickEnd s (n + ps.length) t := by
  induction ps generalizing u n with
  | nil =>
    cases hrun
    exact absurd hidle h.phase_ne_idle
  | cons p ps ih =>
    obtain ⟨v, hv, hend | ⟨hstage, -⟩⟩ := h.edge hf (hps p List.mem_cons_self)
    · rcases ps with _ | ⟨q, qs⟩
      · rw [runEdges_cons_of_next hv] at hrun
        cases hrun
        exact hend
      · exact absurd hend.phase (hbusy 1 (by simp) v (by simp [runEdges_cons_of_next hv]))
    · rw [runEdges_cons_of_next hv] at hrun
      have := ih hstage (fun q hq => hps q (List.mem_cons_of_mem _ hq)) hrun (fun m hm w hw =>
        hbusy (m + 1) (by simpa using hm) w (by rw [List.take_succ_cons, runEdges_cons_of_next hv, hw]))
      rwa [Nat.add_right_comm] at this

theorem edge_start {s : State} (h : s.canStart = true) {p : PortIn} (hp : p.steady s.cfg) (hstart : p.tickStart = true) :
    edge p s = .next (s.sending 0) := by
  obtain ⟨hidle, hf⟩ := State.canStart_iff.1 h
  rw [edge_of_idle hp hidle, edgeIdle_of_start ⟨hstart, hf⟩, State.sending_zero]

/-- R137, R184: what a run that makes up a tick leaves, and how long it is. -/
theorem IsTickRun.tickEnd {ps : List PortIn} {s t : State} (h : IsTickRun ps s t) :
    ∃ n, ps.length = n + 1 ∧ TickEnd s n t := by
  obtain ⟨hstart, hsteady, ⟨p, hhead, hp⟩, hrun, hidle, hbusy⟩ := h
  obtain ⟨qs, rfl⟩ := List.head?_eq_some_iff.1 hhead
  have hedge := edge_start hstart (hsteady p List.mem_cons_self) hp
  rw [runEdges_cons_of_next hedge] at hrun
  have hend := TickStage.run (State.canStart_iff.1 hstart).2 (.sending 0 (Nat.zero_le _) le_rfl)
    (fun q hq => hsteady q (List.mem_cons_of_mem _ hq)) hrun hidle (fun m hm v hv =>
      hbusy (m + 1) m.succ_pos (by simpa using hm) v (by rw [List.take_succ_cons, runEdges_cons_of_next hedge, hv]))
  exact ⟨qs.length, rfl, Nat.zero_add qs.length ▸ hend⟩

/-- Settles O41: by the stages a tick runs through. -/
theorem edgesOfATickRefineTheTick : Obligations.EdgesOfATickRefineTheTick := fun _ _ _ h =>
  let ⟨_, _, hend⟩ := h.tickEnd
  hend.isTick

/-- Settles O43: each byte of the frame, the receive and the decision take an edge at least. -/
theorem completedTickTakesAtLeastItsFrame : Obligations.CompletedTickTakesAtLeastItsFrame := by
  intro ps s t h hf
  obtain ⟨n, hlen, hend⟩ := h.tickEnd
  have := hend.length hf
  omega

end Sys2Proof.Machine
end

section
/-! Proofs of the statements that a tick ends: under the fairness premise every run of edges does (R180), and for all
answers of the transport some run of edges does so (R137). -/

namespace Sys2Proof.Machine

/-! ### A fair transport ends the tick -/

/-- The state after the first `n + 1` edges of `w`, as long as the tick they started still runs. -/
theorem tickStage_of_neverIdle {w : Nat → PortIn} {s : State} (hstart : s.canStart = true)
    (hw0 : (w 0).tickStart = true) (hsteady : ∀ n, (w n).steady s.cfg)
    (hbusy : ∀ n t, runEdges (firstEdges w (n + 1)) s = .next t → t.phase ≠ .idle) (n : Nat) :
    ∃ u, runEdges (firstEdges w (n + 1)) s = .next u ∧ TickStage s n u := by
  induction n with
  | zero =>
    refine ⟨_, ?_, .sending 0 (Nat.zero_le _) le_rfl⟩
    exact runEdges_cons_of_next (edge_start hstart (hsteady 0) hw0) []
  | succ n ih =>
    obtain ⟨u, hu, hstage⟩ := ih
    obtain ⟨v, hv, hnext⟩ := hstage.edge (State.canStart_iff.1 hstart).2 (hsteady (n + 1))
    have hrun : runEdges (firstEdges w (n + 1 + 1)) s = .next v := by
      rw [firstEdges_succ, runEdges_append_of_next hu, runEdges_cons_of_next hv, runEdges_nil]
    rcases hnext with hend | ⟨hstage', -⟩
    · exact absurd hend.phase (hbusy _ _ hrun)
    · exact ⟨v, hrun, hstage'⟩

/-- At each later edge such a tick comes nearer to its end or is kept waiting. -/
theorem progress_of_neverIdle {w : Nat → PortIn} {s : State} (hstart : s.canStart = true)
    (hw0 : (w 0).tickStart = true) (hsteady : ∀ n, (w n).steady s.cfg)
    (hbusy : ∀ n t, runEdges (firstEdges w (n + 1)) s = .next t → t.phase ≠ .idle) {n : Nat} {u : State}
    (hu : runEdges (firstEdges w (n + 1)) s = .next u) :
    ∃ v, runEdges (firstEdges w (n + 1 + 1)) s = .next v ∧
      (v.remaining < u.remaining ∨ (v = u ∧ Waits (w (n + 1)) u)) := by
  obtain ⟨u', hu', hstage⟩ := tickStage_of_neverIdle hstart hw0 hsteady hbusy n
  cases hu.symm.trans hu'
  obtain ⟨v, hv, hnext⟩ := hstage.edge (State.canStart_iff.1 hstart).2 (hsteady (n + 1))
  have hrun : runEdges (firstEdges w (n + 1 + 1)) s = .next v := by
    rw [firstEdges_succ, runEdges_append_of_next hu, runEdges_cons_of_next hv, runEdges_nil]
  rcases hnext with hend | ⟨-, hprogress⟩
  · exact absurd hend.phase (hbusy _ _ hrun)
  · exact ⟨v, hrun, hprogress⟩

/-- A fair transport does not keep the block waiting for ever: by descent on the edges that remain. -/
theorem exists_idle_of_fair {w : Nat → PortIn} {s : State} (hstart : s.canStart = true)
    (hw0 : (w 0).tickStart = true) (hsteady : ∀ n, (w n).steady s.cfg) (hfair : FairTransport w s) :
    ∃ n t, runEdges (firstEdges w (n + 1)) s = .next t ∧ t.phase = .idle := by
  by_contra hnever
  have hbusy (n : Nat) (t : State) (ht : runEdges (firstEdges w (n + 1)) s = .next t) : t.phase ≠ .idle :=
    fun hidle => hnever ⟨n, t, ht, hidle⟩
  have descent (x : Nat) : ∀ n u, runEdges (firstEdges w (n + 1)) s = .next u → u.remaining ≠ x := by
    induction x using Nat.strong_induction_on with
    | _ x ih =>
      rintro n u hu rfl
      have waits (m : Nat) (hm : runEdges (firstEdges w (m + 1)) s = .next u) :
          runEdges (firstEdges w (m + 1 + 1)) s = .next u ∧ Waits (w (m + 1)) u := by
        obtain ⟨v, hv, hless | ⟨rfl, hwait⟩⟩ := progress_of_neverIdle hstart hw0 hsteady hbusy hm
        · exact absurd rfl (ih _ hless _ v hv)
        · exact ⟨hv, hwait⟩
      have stays (m : Nat) (hm : n ≤ m) : runEdges (firstEdges w (m + 1)) s = .next u := by
        induction m, hm using Nat.le_induction with
        | base => exact hu
        | succ m _ hm => exact (waits m hm).1
      have never (m : Nat) (hm : n + 1 ≤ m) : Waits (w m) u := by
        obtain ⟨m, rfl⟩ := Nat.exists_eq_succ_of_ne_zero (Nat.ne_zero_of_lt hm)
        exact (waits m (stays m (Nat.le_of_succ_le_succ hm))).2
      rcases (never (n + 1) le_rfl).2 with ⟨htx, -⟩ | ⟨hrx, -⟩
      · obtain ⟨m, hm, hserved⟩ := hfair.accepts (n + 1) u hu htx
        have hwait := never m hm
        simp_all [Waits]
      · obtain ⟨m, hm, hserved⟩ := hfair.endsReceive (n + 1) u hu hrx
        have hwait := never m hm
        simp_all [Waits]
  obtain ⟨u, hu, -⟩ := tickStage_of_neverIdle hstart hw0 hsteady hbusy 0
  exact descent _ 0 u hu rfl

/-- Settles O60: the run up to the first edge that returns to IDLE. -/
theorem aFairTransportEndsEveryTick : Obligations.AFairTransportEndsEveryTick := by
  classical
  intro w s hstart hw0 hsteady hfair
  have hex := exists_idle_of_fair hstart hw0 hsteady hfair
  obtain ⟨t, ht, hidle⟩ := Nat.find_spec hex
  refine ⟨Nat.find hex + 1, t, hstart, ?_, ⟨w 0, ?_, hw0⟩, ht, hidle, fun n h0 hn u hu hu' => ?_⟩
  · intro p hp
    obtain ⟨n, -, rfl⟩ := List.mem_map.1 hp
    exact hsteady n
  · simp [firstEdges, List.range_succ_eq_map]
  · rw [length_firstEdges] at hn
    obtain ⟨n, rfl⟩ := Nat.exists_eq_succ_of_ne_zero h0.ne'
    rw [take_firstEdges w hn.le] at hu
    exact Nat.find_min hex (Nat.lt_of_succ_lt_succ hn) ⟨u, hu, hu'⟩

/-! ### Every tick is some run of edges -/

/-- Some edges with the straps `cfg` lead from `u` to `t`, and before the last of them the block is never idle. -/
def Reaches (cfg : Config) (u t : State) : Prop :=
  ∃ ps, (∀ p ∈ ps, p.steady cfg) ∧ runEdges ps u = .next t ∧
    ∀ n < ps.length, ∀ v, runEdges (ps.take n) u = .next v → v.phase ≠ .idle

theorem Reaches.refl (cfg : Config) (t : State) : Reaches cfg t t := ⟨[], by simp, rfl, by simp⟩

theorem Reaches.of_edge {cfg : Config} {u v t : State} {p : PortIn} (hp : p.steady cfg) (hu : u.phase ≠ .idle)
    (hv : edge p u = .next v) (h : Reaches cfg v t) : Reaches cfg u t := by
  obtain ⟨ps, hps, hrun, hbusy⟩ := h
  refine ⟨p :: ps, List.forall_mem_cons.2 ⟨hp, hps⟩, by rw [runEdges_cons_of_next hv, hrun], fun n hn x hx => ?_⟩
  cases n with
  | zero =>
    cases hx
    exact hu
  | succ n =>
    rw [List.take_succ_cons, runEdges_cons_of_next hv] at hx
    exact hbusy n (by simpa using hn) x hx

/-- R137: a tick begins at its start edge and ends at the first return to IDLE. -/
theorem exists_isTickRun {s t : State} (hstart : s.canStart = true) (h : Reaches s.cfg (s.sending 0) t)
    (hidle : t.phase = .idle) : ∃ ps, IsTickRun ps s t := by
  obtain ⟨ps, hps, hrun, hbusy⟩ := h
  have hp : ({ quietPorts s.cfg with tickStart := true } : PortIn).steady s.cfg := quietPorts_steady s.cfg
  have hedge := edge_start hstart hp rfl
  refine ⟨_ :: ps, hstart, List.forall_mem_cons.2 ⟨hp, hps⟩, ⟨_, rfl, rfl⟩, by rw [runEdges_cons_of_next hedge, hrun],
    hidle, fun n h0 hn v hv => ?_⟩
  obtain ⟨n, rfl⟩ := Nat.exists_eq_succ_of_ne_zero h0.ne'
  rw [List.take_succ_cons, runEdges_cons_of_next hedge] at hv
  exact hbusy n (Nat.lt_of_succ_lt_succ hn) v hv

/-- A transport that is ready at every edge takes the frame byte by byte. -/
theorem reaches_of_sending {s t : State} {k : Nat} (hk : k ≤ oplen s.state) (h : Reaches s.cfg (s.sending k) t) :
    Reaches s.cfg (s.sending 0) t := by
  induction k with
  | zero => exact h
  | succ k ih =>
    have hp : ({ quietPorts s.cfg with txReady := true } : PortIn).steady s.cfg := quietPorts_steady s.cfg
    exact ih (Nat.le_of_succ_le hk) (.of_edge hp (fun h => by cases h) (edge_sending hp hk rfl rfl) h)

theorem reaches_of_receiving_nil {s t : State} (h : Reaches s.cfg (s.receiving []) t) :
    Reaches s.cfg (s.sending 0) t := by
  have hp : ({ quietPorts s.cfg with txReady := true } : PortIn).steady s.cfg := quietPorts_steady s.cfg
  exact reaches_of_sending le_rfl (.of_edge hp (fun h => by cases h) (edge_sending_last hp rfl rfl) h)

/-- An edge that presents the byte `b` and, where `done` says so, the end of the receive. -/
def bytePorts (cfg : Config) (b : Byte) (done : Bool) : PortIn :=
  { quietPorts cfg with rxValid := true, rxData := b, rxDone := done }

theorem bytePorts_steady (cfg : Config) (b : Byte) (done : Bool) : (bytePorts cfg b done).steady cfg :=
  quietPorts_steady cfg

theorem edge_bytePorts {s : State} {r : List Byte} (hr : r.length < respLen s.cfg s.state) (b : Byte) (done : Bool) :
    edge (bytePorts s.cfg b done) (s.receiving r) = .next
      (if done = true ∨ (r ++ [b]).length = respLen s.cfg s.state then s.judging (r ++ [b])
       else s.receiving (r ++ [b])) :=
  edge_receiving (bytePorts_steady s.cfg b done) hr rfl

/-- A transport that presents a byte at every edge fills the buffer byte by byte. -/
theorem reaches_of_receiving {s t : State} {r : List Byte} (hr : r.length < respLen s.cfg s.state)
    (h : Reaches s.cfg (s.receiving r) t) : Reaches s.cfg (s.sending 0) t := by
  induction r using List.reverseRecOn with
  | nil => exact reaches_of_receiving_nil h
  | append_singleton r b ih =>
    have hshort : r.length < respLen s.cfg s.state := by
      rw [List.length_append] at hr
      omega
    have hedge := edge_bytePorts hshort b false
    rw [if_neg (not_or.2 ⟨Bool.false_ne_true, hr.ne⟩)] at hedge
    exact ih hshort (.of_edge (bytePorts_steady s.cfg b false) (fun h => by cases h) hedge h)

/-- A transport that ends the receive with its last byte, or at once, brings the tick to DECIDE. -/
theorem reaches_of_judging {s t : State} {r : List Byte} (hr : r.length ≤ respLen s.cfg s.state)
    (h : Reaches s.cfg (s.judging r) t) : Reaches s.cfg (s.sending 0) t := by
  induction r using List.reverseRecOn with
  | nil =>
    have hdone : ({ quietPorts s.cfg with rxDone := true } : PortIn).steady s.cfg := quietPorts_steady s.cfg
    have hwant : ([] : List Byte).length < respLen s.cfg s.state := (four_le_respLen _ _).trans_lt' (by simp)
    have hedge := edge_receiving hdone hwant rfl
    rw [if_pos (.inl rfl)] at hedge
    exact reaches_of_receiving_nil (.of_edge hdone (fun h => by cases h) hedge h)
  | append_singleton r b _ =>
    have hshort : r.length < respLen s.cfg s.state := by
      rw [List.length_append] at hr
      exact hr
    have hedge := edge_bytePorts hshort b true
    rw [if_pos (.inl rfl)] at hedge
    exact reaches_of_receiving hshort (.of_edge (bytePorts_steady s.cfg b true) (fun h => by cases h) hedge h)

/-- What the transport delivers before it fails, and what it delivers in all, is cut as the tick cuts it. -/
theorem State.tick_take_error (p : ProtoState) (got : List Byte) (s : State) :
    s.tick p .ok (.error (got.take (respLen s.cfg p - 1))) = s.tick p .ok (.error got) := by
  simp only [State.tick_receive_error, List.take_take, Nat.min_self]

theorem State.tick_take_ok (p : ProtoState) (r : List Byte) (s : State) :
    s.tick p .ok (.ok (r.take (respLen s.cfg p))) = s.tick p .ok (.ok r) := by
  simp only [State.tick_ok, List.take_take, Nat.min_self]

theorem State.tick_min_error (p : ProtoState) (k : Nat) (rx : RxAnswer) (s : State) :
    s.tick p (.error (min k (oplen p))) rx = s.tick p (.error k) rx := by
  simp only [State.tick_transmit_error, Nat.min_assoc, Nat.min_self]

/-- Whatever the transport answers, some edges lead from the first byte on offer to the end of that tick. -/
theorem reaches_tick (s : State) (tx : TxAnswer) (rx : RxAnswer) :
    Reaches s.cfg (s.sending 0) (s.tick s.state tx rx) := by
  have herr : ({ quietPorts s.cfg with tpError := true } : PortIn).steady s.cfg := quietPorts_steady s.cfg
  cases tx with
  | error k =>
    have hk : min k (oplen s.state) ≤ oplen s.state := Nat.min_le_right _ _
    rw [← State.tick_min_error]
    exact reaches_of_sending hk
      (.of_edge herr (fun h => by cases h) (edge_sending_tpError herr hk rfl rx) (.refl _ _))
  | ok =>
    cases rx with
    | error got =>
      have hlen : (got.take (respLen s.cfg s.state - 1)).length < respLen s.cfg s.state := by
        have := four_le_respLen s.cfg s.state
        have := List.length_take_le (respLen s.cfg s.state - 1) got
        omega
      rw [← State.tick_take_error]
      exact reaches_of_receiving hlen
        (.of_edge herr (fun h => by cases h) (edge_receiving_tpError herr hlen rfl) (.refl _ _))
    | ok r =>
      have hlen := List.length_take_le (respLen s.cfg s.state) r
      rw [← State.tick_take_ok]
      exact reaches_of_judging hlen
        (.of_edge (quietPorts_steady s.cfg) (fun h => by cases h) (edge_judging (quietPorts_steady s.cfg) hlen)
          (.refl _ _))

/-- Settles O42: the run is the start edge and the edges that hand over what the transport answers. -/
theorem everyTickIsSomeRunOfEdges : Obligations.EveryTickIsSomeRunOfEdges := fun s tx rx hstart =>
  exists_isTickRun hstart (reaches_tick s tx rx) (State.tick_phase _ _ _ _)

end Sys2Proof.Machine
end
